-- ==== Sys2Proof/Word.lean ====
section
/-! DEFINITION. The word types of the core. Every value of the machine is unsigned (spec 00_scope.md R8): a
register, a byte of memory and an immediate are bits, a register or key number is an index. -/

namespace Sys2Proof

/-- One byte: a general register, a timer, a byte of memory (R10, R18, R19, R22). -/
abbrev Byte := BitVec 8

/-- Sixteen bits: `I`, `PC`, a call-stack entry, an instruction word (R12, R13, R17, R60). -/
abbrev Word16 := BitVec 16

/-- The 12-bit address field `NNN` of an instruction (R61). -/
abbrev Addr12 := BitVec 12

/-- The 4-bit immediate `N` of an instruction (R61). -/
abbrev Nibble := BitVec 4

/-- The number of a general register, 0 to 15 (R10). -/
abbrev Reg := Fin 16

/-- The number of a key, 0 to 15 (R20). -/
abbrev Key := Fin 16

end Sys2Proof
end

