-- ==== Sys2Proof/Syntax.lean ====
section
/-! DEFINITION. The instructions: one constructor per row of spec/opcode_table.json (30_encoding.md R63), with typed
operand fields (R61, R65, R72). `X` and `Y` are register numbers, `NN` a byte, `NNN` a 12-bit address, `N` a row count. -/

namespace Sys2Proof

inductive Instr where
  /-- `00E0` `CLS` (R140) -/
  | cls
  /-- `00EE` `RET` (R84) -/
  | ret
  /-- `1NNN` `JP NNN` (R82) -/
  | jp (nnn : Addr12)
  /-- `2NNN` `CALL NNN` (R83) -/
  | call (nnn : Addr12)
  /-- `3XNN` `SE Vx, NN` (R87) -/
  | seImm (x : Reg) (nn : Byte)
  /-- `4XNN` `SNE Vx, NN` (R88) -/
  | sneImm (x : Reg) (nn : Byte)
  /-- `5XY0` `SE Vx, Vy` (R89) -/
  | seReg (x y : Reg)
  /-- `6XNN` `LD Vx, NN` (R101) -/
  | ldImm (x : Reg) (nn : Byte)
  /-- `7XNN` `ADD Vx, NN` (R111) -/
  | addImm (x : Reg) (nn : Byte)
  /-- `8XY0` `LD Vx, Vy` (R102) -/
  | ldReg (x y : Reg)
  /-- `8XY1` `OR Vx, Vy` (R103) -/
  | orReg (x y : Reg)
  /-- `8XY2` `AND Vx, Vy` (R104) -/
  | andReg (x y : Reg)
  /-- `8XY3` `XOR Vx, Vy` (R105) -/
  | xorReg (x y : Reg)
  /-- `8XY4` `ADD Vx, Vy` (R106) -/
  | addReg (x y : Reg)
  /-- `8XY5` `SUB Vx, Vy` (R107) -/
  | subReg (x y : Reg)
  /-- `8XY6` `SHR Vx, Vy` (R108) -/
  | shr (x y : Reg)
  /-- `8XY7` `SUBN Vx, Vy` (R109) -/
  | subnReg (x y : Reg)
  /-- `8XYE` `SHL Vx, Vy` (R110) -/
  | shl (x y : Reg)
  /-- `9XY0` `SNE Vx, Vy` (R90) -/
  | sneReg (x y : Reg)
  /-- `ANNN` `LD I, NNN` (R120) -/
  | ldI (nnn : Addr12)
  /-- `BNNN` `JP V0, NNN` (R86) -/
  | jpV0 (nnn : Addr12)
  /-- `CXNN` `RND Vx, NN` (R115) -/
  | rnd (x : Reg) (nn : Byte)
  /-- `DXYN` `DRW Vx, Vy, N` (R143) -/
  | drw (x y : Reg) (n : Nibble)
  /-- `EX9E` `SKP Vx` (R160) -/
  | skp (x : Reg)
  /-- `EXA1` `SKNP Vx` (R161) -/
  | sknp (x : Reg)
  /-- `FX07` `LD Vx, DT` (R165) -/
  | ldVxDt (x : Reg)
  /-- `FX0A` `LD Vx, K` (R164) -/
  | ldVxK (x : Reg)
  /-- `FX15` `LD DT, Vx` (R166) -/
  | ldDtVx (x : Reg)
  /-- `FX18` `LD ST, Vx` (R167) -/
  | ldStVx (x : Reg)
  /-- `FX1E` `ADD I, Vx` (R121) -/
  | addI (x : Reg)
  /-- `FX29` `LD F, Vx` (R122) -/
  | ldF (x : Reg)
  /-- `FX33` `LD B, Vx` (R123) -/
  | ldB (x : Reg)
  /-- `FX55` `LD [I], Vx` (R125) -/
  | storeRegs (x : Reg)
  /-- `FX65` `LD Vx, [I]` (R126) -/
  | loadRegs (x : Reg)
  deriving DecidableEq, Repr

end Sys2Proof
end

