-- ==== Sys2Proof/WellFormed.lean ====
section
/-! DEFINITION. Well-formed operands (spec 30_encoding.md R61, R65): the range each operand form admits, as a check on
the number an assembler would write. The constructors' types already hold an operand to its range, so every `Instr` is
well formed (Laws/PerInstr.lean proves it, constructor by constructor); the check says what those ranges are. -/

namespace Sys2Proof

/-- An operand as a plain number, by the field it stands in (R61). -/
inductive Operand where
  /-- an `X` or `Y` field -/
  | reg (n : Nat)
  /-- an `N` field -/
  | imm4 (n : Nat)
  /-- an `NN` field -/
  | imm8 (n : Nat)
  /-- an `NNN` field -/
  | addr12 (n : Nat)
  deriving DecidableEq, Repr

/-- The number fits its field (R65: "all 16 values are legal in every instruction that has the field"). -/
def Operand.wf : Operand → Bool
  | .reg n => decide (n < 16)
  | .imm4 n => decide (n < 16)
  | .imm8 n => decide (n < 256)
  | .addr12 n => decide (n < 4096)

/-- The operands of an instruction, in the order of its assembler syntax (R62, R70). -/
def Instr.operands : Instr → List Operand
  | .cls => []
  | .ret => []
  | .jp nnn => [.addr12 nnn.toNat]
  | .call nnn => [.addr12 nnn.toNat]
  | .seImm x nn => [.reg x.val, .imm8 nn.toNat]
  | .sneImm x nn => [.reg x.val, .imm8 nn.toNat]
  | .seReg x y => [.reg x.val, .reg y.val]
  | .ldImm x nn => [.reg x.val, .imm8 nn.toNat]
  | .addImm x nn => [.reg x.val, .imm8 nn.toNat]
  | .ldReg x y => [.reg x.val, .reg y.val]
  | .orReg x y => [.reg x.val, .reg y.val]
  | .andReg x y => [.reg x.val, .reg y.val]
  | .xorReg x y => [.reg x.val, .reg y.val]
  | .addReg x y => [.reg x.val, .reg y.val]
  | .subReg x y => [.reg x.val, .reg y.val]
  | .shr x y => [.reg x.val, .reg y.val]
  | .subnReg x y => [.reg x.val, .reg y.val]
  | .shl x y => [.reg x.val, .reg y.val]
  | .sneReg x y => [.reg x.val, .reg y.val]
  | .ldI nnn => [.addr12 nnn.toNat]
  | .jpV0 nnn => [.addr12 nnn.toNat]
  | .rnd x nn => [.reg x.val, .imm8 nn.toNat]
  | .drw x y n => [.reg x.val, .reg y.val, .imm4 n.toNat]
  | .skp x => [.reg x.val]
  | .sknp x => [.reg x.val]
  | .ldVxDt x => [.reg x.val]
  | .ldVxK x => [.reg x.val]
  | .ldDtVx x => [.reg x.val]
  | .ldStVx x => [.reg x.val]
  | .addI x => [.reg x.val]
  | .ldF x => [.reg x.val]
  | .ldB x => [.reg x.val]
  | .storeRegs x => [.reg x.val]
  | .loadRegs x => [.reg x.val]

/-- Every operand fits its field. -/
def Instr.wf (i : Instr) : Bool := i.operands.all Operand.wf

end Sys2Proof
end

