-- ==== Sys2Proof/Decode.lean ====
section
/-! DEFINITION. The decoder and the encoder (spec 30_encoding.md R60 to R68, opcode_table.json). Decoding is total on any bytes, pure, and
refuses a word that matches no row by name (R64, R66). The encoder is written from the formats of R62; `opcodeRow`
is the match and mask of the table of R63, kept apart from both so that they can be held against it. -/

namespace Sys2Proof

/-! ## Fields of an instruction word (R61) -/

/-- `OP = w[15:12]`: the family. -/
def fieldOp (w : Word16) : Nibble := w.extractLsb' 12 4

/-- The `X` nibble, `w[11:8]`. -/
def fieldX (w : Word16) : Nibble := w.extractLsb' 8 4

/-- The `Y` nibble, `w[7:4]`. -/
def fieldY (w : Word16) : Nibble := w.extractLsb' 4 4

/-- `N = w[3:0]`. -/
def fieldN (w : Word16) : Nibble := w.extractLsb' 0 4

/-- `NN = w[7:0]`. -/
def fieldNN (w : Word16) : Byte := w.extractLsb' 0 8

/-- `NNN = w[11:0]`. -/
def fieldNNN (w : Word16) : Addr12 := w.extractLsb' 0 12

/-- The register a nibble names. -/
def regOf (b : Nibble) : Reg := ⟨b.toNat, b.isLt⟩

/-- The nibble that names a register. -/
def regBits (r : Reg) : Nibble := BitVec.ofNat 4 r.val

/-- `X` as a register number. -/
def regX (w : Word16) : Reg := regOf (fieldX w)

/-- `Y` as a register number. -/
def regY (w : Word16) : Reg := regOf (fieldY w)

/-! ## Byte order of an instruction in memory (R42, R60) -/

/-- The word two bytes spell: the byte at the lower address is the high byte (R42). -/
def wordOfBytes (hi lo : Byte) : Word16 := hi ++ lo

/-- `w[15:8]`: the byte at the lower address. -/
def highByte (w : Word16) : Byte := w.extractLsb' 8 8

/-- `w[7:0]`: the byte at the higher address. -/
def lowByte (w : Word16) : Byte := w.extractLsb' 0 8

/-! ## The decoder (R64) -/

/-- Why bytes are no instruction. -/
inductive DecodeError where
  /-- the word matches no row of the opcode map (R66) -/
  | unknownOpcode (w : Word16)
  /-- fewer than two bytes: no instruction is shorter (R60) -/
  | truncated
  deriving DecidableEq, Repr

/-- Family 8, selected by the low nibble (R64). -/
def decodeFamily8 (w : Word16) : Except DecodeError Instr :=
  match (fieldN w).toNat with
  | 0x0 => .ok (.ldReg (regX w) (regY w))
  | 0x1 => .ok (.orReg (regX w) (regY w))
  | 0x2 => .ok (.andReg (regX w) (regY w))
  | 0x3 => .ok (.xorReg (regX w) (regY w))
  | 0x4 => .ok (.addReg (regX w) (regY w))
  | 0x5 => .ok (.subReg (regX w) (regY w))
  | 0x6 => .ok (.shr (regX w) (regY w))
  | 0x7 => .ok (.subnReg (regX w) (regY w))
  | 0xE => .ok (.shl (regX w) (regY w))
  | _ => .error (.unknownOpcode w)

/-- Family E, selected by the low byte (R64). -/
def decodeFamilyE (w : Word16) : Except DecodeError Instr :=
  if fieldNN w = 0x9E#8 then .ok (.skp (regX w))
  else if fieldNN w = 0xA1#8 then .ok (.sknp (regX w))
  else .error (.unknownOpcode w)

/-- Family F, selected by the low byte (R64). -/
def decodeFamilyF (w : Word16) : Except DecodeError Instr :=
  if fieldNN w = 0x07#8 then .ok (.ldVxDt (regX w))
  else if fieldNN w = 0x0A#8 then .ok (.ldVxK (regX w))
  else if fieldNN w = 0x15#8 then .ok (.ldDtVx (regX w))
  else if fieldNN w = 0x18#8 then .ok (.ldStVx (regX w))
  else if fieldNN w = 0x1E#8 then .ok (.addI (regX w))
  else if fieldNN w = 0x29#8 then .ok (.ldF (regX w))
  else if fieldNN w = 0x33#8 then .ok (.ldB (regX w))
  else if fieldNN w = 0x55#8 then .ok (.storeRegs (regX w))
  else if fieldNN w = 0x65#8 then .ok (.loadRegs (regX w))
  else .error (.unknownOpcode w)

/-- The decode procedure of R64, family by family. Strict: in families 5 and 9 the low nibble must be 0 (R66). -/
def decodeWord (w : Word16) : Except DecodeError Instr :=
  match (fieldOp w).toNat with
  | 0x0 =>
    if w = 0x00E0#16 then .ok .cls else if w = 0x00EE#16 then .ok .ret else .error (.unknownOpcode w)
  | 0x1 => .ok (.jp (fieldNNN w))
  | 0x2 => .ok (.call (fieldNNN w))
  | 0x3 => .ok (.seImm (regX w) (fieldNN w))
  | 0x4 => .ok (.sneImm (regX w) (fieldNN w))
  | 0x5 => if fieldN w = 0x0#4 then .ok (.seReg (regX w) (regY w)) else .error (.unknownOpcode w)
  | 0x6 => .ok (.ldImm (regX w) (fieldNN w))
  | 0x7 => .ok (.addImm (regX w) (fieldNN w))
  | 0x8 => decodeFamily8 w
  | 0x9 => if fieldN w = 0x0#4 then .ok (.sneReg (regX w) (regY w)) else .error (.unknownOpcode w)
  | 0xA => .ok (.ldI (fieldNNN w))
  | 0xB => .ok (.jpV0 (fieldNNN w))
  | 0xC => .ok (.rnd (regX w) (fieldNN w))
  | 0xD => .ok (.drw (regX w) (regY w) (fieldN w))
  | 0xE => decodeFamilyE w
  | _ => decodeFamilyF w

/-- Decode the instruction at the head of a byte sequence, and the bytes after it. Every instruction is two bytes,
high byte first (R60). -/
def decode : List Byte → Except DecodeError (Instr × List Byte)
  | hi :: lo :: rest =>
    match decodeWord (wordOfBytes hi lo) with
    | .ok i => .ok (i, rest)
    | .error e => .error e
  | _ => .error .truncated

/-! ## The encoder (R62, R63) -/

/-- Format `NNN`: `o NNN`. -/
def encNNN (op : Nibble) (nnn : Addr12) : Word16 := op ++ nnn

/-- Format `XNN`: `o X NN`. -/
def encXNN (op : Nibble) (x : Reg) (nn : Byte) : Word16 := encNNN op (regBits x ++ nn)

/-- Format `XYN`: `o X Y N`; format `XY` is the same with a fixed low nibble. -/
def encXYN (op : Nibble) (x y : Reg) (n : Nibble) : Word16 := encXNN op x (regBits y ++ n)

/-- The word of an instruction, by its pattern in the table of R63. -/
def encode : Instr → Word16
  | .cls => 0x00E0#16
  | .ret => 0x00EE#16
  | .jp nnn => encNNN 0x1#4 nnn
  | .call nnn => encNNN 0x2#4 nnn
  | .seImm x nn => encXNN 0x3#4 x nn
  | .sneImm x nn => encXNN 0x4#4 x nn
  | .seReg x y => encXYN 0x5#4 x y 0x0#4
  | .ldImm x nn => encXNN 0x6#4 x nn
  | .addImm x nn => encXNN 0x7#4 x nn
  | .ldReg x y => encXYN 0x8#4 x y 0x0#4
  | .orReg x y => encXYN 0x8#4 x y 0x1#4
  | .andReg x y => encXYN 0x8#4 x y 0x2#4
  | .xorReg x y => encXYN 0x8#4 x y 0x3#4
  | .addReg x y => encXYN 0x8#4 x y 0x4#4
  | .subReg x y => encXYN 0x8#4 x y 0x5#4
  | .shr x y => encXYN 0x8#4 x y 0x6#4
  | .subnReg x y => encXYN 0x8#4 x y 0x7#4
  | .shl x y => encXYN 0x8#4 x y 0xE#4
  | .sneReg x y => encXYN 0x9#4 x y 0x0#4
  | .ldI nnn => encNNN 0xA#4 nnn
  | .jpV0 nnn => encNNN 0xB#4 nnn
  | .rnd x nn => encXNN 0xC#4 x nn
  | .drw x y n => encXYN 0xD#4 x y n
  | .skp x => encXNN 0xE#4 x 0x9E#8
  | .sknp x => encXNN 0xE#4 x 0xA1#8
  | .ldVxDt x => encXNN 0xF#4 x 0x07#8
  | .ldVxK x => encXNN 0xF#4 x 0x0A#8
  | .ldDtVx x => encXNN 0xF#4 x 0x15#8
  | .ldStVx x => encXNN 0xF#4 x 0x18#8
  | .addI x => encXNN 0xF#4 x 0x1E#8
  | .ldF x => encXNN 0xF#4 x 0x29#8
  | .ldB x => encXNN 0xF#4 x 0x33#8
  | .storeRegs x => encXNN 0xF#4 x 0x55#8
  | .loadRegs x => encXNN 0xF#4 x 0x65#8

/-- The two bytes of an instruction as they lie in memory (R42). -/
def encodeBytes (i : Instr) : List Byte := [highByte (encode i), lowByte (encode i)]

/-! ## The table of R63 -/

/-- A row of the opcode map: a word selects it exactly when `w & mask = pattern`. -/
structure OpcodeRow where
  pattern : Word16
  mask : Word16
  deriving DecidableEq, Repr

/-- "A word `w` selects row `r` exactly when `w & mask_r == match_r`" (R63). -/
def OpcodeRow.selects (r : OpcodeRow) (w : Word16) : Bool := w &&& r.mask == r.pattern

/-- The 34 rows, in the order of the table of R63. -/
def opcodeRows : List OpcodeRow :=
  [⟨0x00E0#16, 0xFFFF#16⟩, ⟨0x00EE#16, 0xFFFF#16⟩, ⟨0x1000#16, 0xF000#16⟩, ⟨0x2000#16, 0xF000#16⟩,
   ⟨0x3000#16, 0xF000#16⟩, ⟨0x4000#16, 0xF000#16⟩, ⟨0x5000#16, 0xF00F#16⟩, ⟨0x6000#16, 0xF000#16⟩,
   ⟨0x7000#16, 0xF000#16⟩] ++
  [⟨0x8000#16, 0xF00F#16⟩, ⟨0x8001#16, 0xF00F#16⟩, ⟨0x8002#16, 0xF00F#16⟩, ⟨0x8003#16, 0xF00F#16⟩,
   ⟨0x8004#16, 0xF00F#16⟩, ⟨0x8005#16, 0xF00F#16⟩, ⟨0x8006#16, 0xF00F#16⟩, ⟨0x8007#16, 0xF00F#16⟩,
   ⟨0x800E#16, 0xF00F#16⟩] ++
  [⟨0x9000#16, 0xF00F#16⟩, ⟨0xA000#16, 0xF000#16⟩, ⟨0xB000#16, 0xF000#16⟩, ⟨0xC000#16, 0xF000#16⟩,
   ⟨0xD000#16, 0xF000#16⟩, ⟨0xE09E#16, 0xF0FF#16⟩, ⟨0xE0A1#16, 0xF0FF#16⟩] ++
  [⟨0xF007#16, 0xF0FF#16⟩, ⟨0xF00A#16, 0xF0FF#16⟩, ⟨0xF015#16, 0xF0FF#16⟩, ⟨0xF018#16, 0xF0FF#16⟩,
   ⟨0xF01E#16, 0xF0FF#16⟩, ⟨0xF029#16, 0xF0FF#16⟩, ⟨0xF033#16, 0xF0FF#16⟩, ⟨0xF055#16, 0xF0FF#16⟩,
   ⟨0xF065#16, 0xF0FF#16⟩]

/-- The row of the table an instruction stands in. -/
def Instr.row : Instr → OpcodeRow
  | .cls => ⟨0x00E0#16, 0xFFFF#16⟩
  | .ret => ⟨0x00EE#16, 0xFFFF#16⟩
  | .jp _ => ⟨0x1000#16, 0xF000#16⟩
  | .call _ => ⟨0x2000#16, 0xF000#16⟩
  | .seImm _ _ => ⟨0x3000#16, 0xF000#16⟩
  | .sneImm _ _ => ⟨0x4000#16, 0xF000#16⟩
  | .seReg _ _ => ⟨0x5000#16, 0xF00F#16⟩
  | .ldImm _ _ => ⟨0x6000#16, 0xF000#16⟩
  | .addImm _ _ => ⟨0x7000#16, 0xF000#16⟩
  | .ldReg _ _ => ⟨0x8000#16, 0xF00F#16⟩
  | .orReg _ _ => ⟨0x8001#16, 0xF00F#16⟩
  | .andReg _ _ => ⟨0x8002#16, 0xF00F#16⟩
  | .xorReg _ _ => ⟨0x8003#16, 0xF00F#16⟩
  | .addReg _ _ => ⟨0x8004#16, 0xF00F#16⟩
  | .subReg _ _ => ⟨0x8005#16, 0xF00F#16⟩
  | .shr _ _ => ⟨0x8006#16, 0xF00F#16⟩
  | .subnReg _ _ => ⟨0x8007#16, 0xF00F#16⟩
  | .shl _ _ => ⟨0x800E#16, 0xF00F#16⟩
  | .sneReg _ _ => ⟨0x9000#16, 0xF00F#16⟩
  | .ldI _ => ⟨0xA000#16, 0xF000#16⟩
  | .jpV0 _ => ⟨0xB000#16, 0xF000#16⟩
  | .rnd _ _ => ⟨0xC000#16, 0xF000#16⟩
  | .drw _ _ _ => ⟨0xD000#16, 0xF000#16⟩
  | .skp _ => ⟨0xE09E#16, 0xF0FF#16⟩
  | .sknp _ => ⟨0xE0A1#16, 0xF0FF#16⟩
  | .ldVxDt _ => ⟨0xF007#16, 0xF0FF#16⟩
  | .ldVxK _ => ⟨0xF00A#16, 0xF0FF#16⟩
  | .ldDtVx _ => ⟨0xF015#16, 0xF0FF#16⟩
  | .ldStVx _ => ⟨0xF018#16, 0xF0FF#16⟩
  | .addI _ => ⟨0xF01E#16, 0xF0FF#16⟩
  | .ldF _ => ⟨0xF029#16, 0xF0FF#16⟩
  | .ldB _ => ⟨0xF033#16, 0xF0FF#16⟩
  | .storeRegs _ => ⟨0xF055#16, 0xF0FF#16⟩
  | .loadRegs _ => ⟨0xF065#16, 0xF0FF#16⟩

/-! ## The host's reading of a table word -/

/-- The instruction word whose bits are `w`, of which the table gives `nbits`; the bits above are 0. -/
def tableWord (nbits w : Nat) : Word16 := BitVec.ofNat 16 (w % 2 ^ nbits)

/-- What the decoder reads from the instruction whose bits are `w`, laid out as the core stores it: high byte at the
lower address (R42). -/
def decodeTableWord (nbits w : Nat) : Option Instr :=
  match decode [highByte (tableWord nbits w), lowByte (tableWord nbits w)] with
  | .ok (i, _) => some i
  | .error _ => none

end Sys2Proof
end

