-- ==== Sys2Proof/Config.lean ====
section
/-! DEFINITION. What is fixed for a machine: the constants of spec 00_scope.md R4 and R5, the four open parameters
of R6, and the one free value, the random byte of R115. -/

namespace Sys2Proof.Config

/-- `MEM_SIZE` (R4): the bytes of memory, addresses 0x000 to 0xFFF. -/
def memSize : Nat := 4096

/-- `ADDR_MAX` (R4): the largest address an access may use. -/
def addrMax : Nat := 0xFFF

/-- `ENTRY` (R4): where `PC` starts and where a program image is loaded. -/
def entry : Nat := 0x200

/-- `IMAGE_MAX` (R4): the largest program image, in bytes. -/
def imageMax : Nat := 3584

/-- `STACK_DEPTH` (R4). -/
def stackDepth : Nat := 16

/-- `FB_W` (R4): columns of the framebuffer. -/
def fbWidth : Nat := 64

/-- `FB_H` (R4): rows of the framebuffer. -/
def fbHeight : Nat := 32

/-- The four open parameters of R6, which the model takes as arguments. They are fixed for a run: no instruction and
no event changes them (R26, R212). -/
structure Quirks where
  /-- `Q_LOADSTORE_INC_I`: `FX55` and `FX65` end with `I <- I + X + 1`. -/
  loadStoreIncI : Bool
  /-- `Q_DRAW_WRAP`: pixels past the right or bottom edge wrap instead of being clipped. -/
  drawWrap : Bool
  /-- `Q_LOGIC_RESETS_VF`: `8XY1`, `8XY2`, `8XY3` end with `V[0xF] <- 0`. -/
  logicResetsVf : Bool
  /-- `Q_SHIFT_USES_VY`: `8XY6` and `8XYE` shift `V[Y]` into `V[X]`. -/
  shiftUsesVy : Bool
  deriving DecidableEq, Repr

/-- The defaults of R6: every parameter false. -/
def Quirks.default : Quirks :=
  { loadStoreIncI := false, drawWrap := false, logicResetsVf := false, shiftUsesVy := false }

/-- FREE VALUE (R7, R115, DESIGN CHOICE, log entry 2). The `n`-th random byte that `CXNN` consumes: any value 0 to 255, under no
law. It has no body, so nothing can be proved of its value and a claim holds whatever it is. -/
opaque rnd : Nat → Byte

end Sys2Proof.Config
end

