-- ==== Sys2Proof/Machine/State.lean ====
section
/-! DEFINITION. The state of the core, every piece the spec gives it (10_state.md R10 to R25), as plain data; why a
run can stop; and the state right after `Reset` (R25, R210). -/

namespace Sys2Proof.Machine

/-- Memory as (address, byte) pairs: addresses strictly rising, no entry equal to what an unlisted address reads as
(`Memory.wf`). An unlisted address reads as `Reset` leaves it (R22; DEDUCED,
log entry 8). -/
abbrev Memory := List Host.Cell

/-- The framebuffer (R21): 32 rows, row 0 at the top; bit `x` of a row is the pixel in column `x`, column 0 at the
left (DESIGN CHOICE, log entry 7). -/
abbrev FrameBuffer := Vector (BitVec 64) 32

/-- `FAULT.kind` (R23, R180). The codes 5 to 7 never occur, so they have no constructor. -/
inductive FaultKind where
  /-- code 0: the core runs -/
  | none
  /-- code 1: the fetched word matches no row of the opcode map -/
  | unknownOpcode
  /-- code 2: a call with 16 valid entries -/
  | stackOverflow
  /-- code 3: a return with no valid entry -/
  | stackUnderflow
  /-- code 4: an address above 0xFFF would be used -/
  | outOfBounds
  deriving DecidableEq, Repr

/-- `FAULT` (R23): written only by a raise, cleared only by `Reset`, read by no instruction. -/
structure FaultRecord where
  /-- the fault, `none` while the core runs -/
  kind : FaultKind
  /-- `PC` at the start of the faulting step -/
  pc : Word16
  /-- the instruction word, 0 when the fetch itself faulted -/
  word : Word16
  /-- the first offending address of an `outOfBounds`, else 0 -/
  addr : BitVec 17
  deriving DecidableEq, Repr

/-- `FAULT` with all fields 0 (R25). -/
def FaultRecord.clear : FaultRecord := { kind := .none, pc := 0#16, word := 0#16, addr := 0#17 }

/-- The state. The last two fields are the model's own: the parameters of R6, which the spec keeps apart from state
(DESIGN CHOICE, log entry 1), and the count of random bytes consumed (DESIGN CHOICE, log entry 2). -/
structure State where
  /-- `V[0]` to `V[15]` (R10); `V[15]` is the flag (R11) -/
  v : Vector Byte 16
  /-- the index register `I` (R12) -/
  i : Word16
  /-- the program counter (R13) -/
  pc : Word16
  /-- `SP`: the count of valid stack entries, 0 to 16 (R16; DESIGN CHOICE, log entry 5) -/
  sp : Fin 17
  /-- `STACK[0]` to `STACK[15]` (R17) -/
  stack : Vector Word16 16
  /-- the delay timer (R18) -/
  dt : Byte
  /-- the sound timer (R19) -/
  st : Byte
  /-- the keypad latch (R20): bit `k` is `KEYS[k]`, 1 when pressed -/
  keys : BitVec 16
  /-- the framebuffer (R21) -/
  fb : FrameBuffer
  /-- memory, 4096 bytes (R22) -/
  mem : Memory
  /-- the fault record (R23) -/
  fault : FaultRecord
  /-- the four parameters of R6, fixed for a run (R26) -/
  quirks : Config.Quirks
  /-- how many random bytes have been consumed: the next one is `Config.rnd rndCount` (R115) -/
  rndCount : Nat
  deriving DecidableEq, Repr

/-- Why a step can stop without a next state: never. The core's four faults are next states, with `FAULT` written
and the core halted (R186, R187), and every step of the core answers one of those or an effect (DEDUCED, safe:
log entry 3). -/
inductive Fault : Type
  deriving DecidableEq, Repr

/-- Why the model gives no next state. -/
inductive Refusal where
  /-- An instruction that has no meaning yet (raised by `exec`'s arm; safe). No arm raises it. -/
  | notModelled (mnemonic : String)
  /-- `LoadImage` of more than 3584 bytes: the loader's "program-image-too-large" (R31, R185, R213). Raised by the
  `LoadImage` event only, by no instruction; no state changes and the core is not halted (safe: the spec's own
  refusal; DEDUCED, log entry 15). -/
  | imageTooLarge
  deriving DecidableEq, Repr

/-- The state right after `Reset` (R25, R210), with the default parameters (R6). Memory lists nothing: every byte
reads as `Reset` leaves it, the font at 0x000 and zero elsewhere. -/
def State.reset : State :=
  { v := Vector.replicate 16 0#8
    i := 0x0000#16
    pc := 0x0200#16
    sp := 0
    stack := Vector.replicate 16 0x0000#16
    dt := 0x00#8
    st := 0x00#8
    keys := 0x0000#16
    fb := Vector.replicate 32 0#64
    mem := []
    fault := FaultRecord.clear
    quirks := Config.Quirks.default
    rndCount := 0 }

end Sys2Proof.Machine
end

