-- ==== Sys2Proof/Machine/Ops.lean ====
section
/-! DEFINITION. The named operations over memory, registers, the stack and the framebuffer, and taking a fault: the
one way an instruction touches the state. -/

namespace Sys2Proof.Machine

/-! ## The font (R5, R27) -/

/-- `FONT_BASE` (R5). -/
def fontBase : Nat := 0x000

/-- `GLYPH_STRIDE` (R5): bytes per glyph. -/
def glyphStride : Nat := 5

/-- `FONT[0..79]` (R27): five bytes for each hexadecimal digit, top row first. -/
def font : List Byte :=
  [0xF0#8, 0x90#8, 0x90#8, 0x90#8, 0xF0#8] ++ [0x20#8, 0x60#8, 0x20#8, 0x20#8, 0x70#8] ++
  [0xF0#8, 0x10#8, 0xF0#8, 0x80#8, 0xF0#8] ++ [0xF0#8, 0x10#8, 0xF0#8, 0x10#8, 0xF0#8] ++
  [0x90#8, 0x90#8, 0xF0#8, 0x10#8, 0x10#8] ++ [0xF0#8, 0x80#8, 0xF0#8, 0x10#8, 0xF0#8] ++
  [0xF0#8, 0x80#8, 0xF0#8, 0x90#8, 0xF0#8] ++ [0xF0#8, 0x10#8, 0x20#8, 0x40#8, 0x40#8] ++
  [0xF0#8, 0x90#8, 0xF0#8, 0x90#8, 0xF0#8] ++ [0xF0#8, 0x90#8, 0xF0#8, 0x10#8, 0xF0#8] ++
  [0xF0#8, 0x90#8, 0xF0#8, 0x90#8, 0x90#8] ++ [0xE0#8, 0x90#8, 0xE0#8, 0x90#8, 0xE0#8] ++
  [0xF0#8, 0x80#8, 0x80#8, 0x80#8, 0xF0#8] ++ [0xE0#8, 0x90#8, 0x90#8, 0x90#8, 0xE0#8] ++
  [0xF0#8, 0x80#8, 0xF0#8, 0x80#8, 0xF0#8] ++ [0xF0#8, 0x80#8, 0xF0#8, 0x80#8, 0x80#8]

/-! ## Memory (R22, R40, R45) -/

/-- What an address no cell lists reads as: the byte `Reset` leaves there (R22, R25), the font from `FONT_BASE` and
zero elsewhere. -/
def unlistedByte (a : Nat) : Byte := if a < fontBase then 0x00#8 else font.getD (a - fontBase) 0x00#8

/-- `MEM[a]`. -/
def Memory.read : Memory → Nat → Byte
  | [], a => unlistedByte a
  | c :: m, a => if c.1 = a then c.2 else Memory.read m a

/-- Drop the cell of an address. -/
def Memory.erase (m : Memory) (a : Nat) : Memory := m.filter fun c => c.1 != a

/-- Put a cell where its address belongs in a rising list. -/
def Memory.place (a : Nat) (b : Byte) : Memory → Memory
  | [] => [(a, b)]
  | c :: m => if a < c.1 then (a, b) :: c :: m else c :: Memory.place a b m

/-- `MEM[a] <- b`: only that byte changes (R45). Writing what an unlisted address reads as removes the cell, so that
equal memories are equal lists. -/
def Memory.write (m : Memory) (a : Nat) (b : Byte) : Memory :=
  if b = unlistedByte a then Memory.erase m a else Memory.place a b (Memory.erase m a)

/-- Write consecutive bytes from `a` upward, in ascending order (R45). -/
def Memory.writeList (m : Memory) (a : Nat) : List Byte → Memory
  | [] => m
  | b :: bs => Memory.writeList (Memory.write m a b) (a + 1) bs

/-- Cells at addresses from `lo` to 0xFFF, strictly rising, none equal to the unlisted byte. -/
def Memory.risingFrom : Nat → Memory → Bool
  | _, [] => true
  | lo, c :: m =>
    decide (lo ≤ c.1) && decide (c.1 ≤ Config.addrMax) && decide (c.2 ≠ unlistedByte c.1) && Memory.risingFrom (c.1 + 1) m

/-- The canonical form of memory. -/
def Memory.wf (m : Memory) : Bool := Memory.risingFrom 0 m

/-! ## Registers -/

/-- `V[x]` (R10). -/
def State.getV (s : State) (x : Reg) : Byte := s.v[x]

/-- `V[x] <- b` (R10). -/
def State.setV (s : State) (x : Reg) (b : Byte) : State := { s with v := s.v.set x b }

/-- Write all sixteen registers at once. -/
def State.setAllV (s : State) (vs : Vector Byte 16) : State := { s with v := vs }

/-- `I <- w` (R12). -/
def State.setI (s : State) (w : Word16) : State := { s with i := w }

/-- `PC <- w` (R13). -/
def State.setPc (s : State) (w : Word16) : State := { s with pc := w }

/-- `DT <- b` (R18). -/
def State.setDt (s : State) (b : Byte) : State := { s with dt := b }

/-- `ST <- b` (R19). -/
def State.setSt (s : State) (b : Byte) : State := { s with st := b }

/-- `KEYS <- k`: the host's write of the keypad latch (R20, R31). No instruction does this. -/
def State.setKeys (s : State) (k : BitVec 16) : State := { s with keys := k }

/-- Replace the framebuffer (R21). -/
def State.setFb (s : State) (fb : FrameBuffer) : State := { s with fb := fb }

/-- Replace memory (R22). -/
def State.setMem (s : State) (m : Memory) : State := { s with mem := m }

/-- Replace the fault record (R23). -/
def State.setFault (s : State) (f : FaultRecord) : State := { s with fault := f }

/-- One random byte has been consumed (R115). -/
def State.consumeRnd (s : State) : State := { s with rndCount := s.rndCount + 1 }

/-- `MEM[a]` in the state. -/
def State.readByte (s : State) (a : Nat) : Byte := Memory.read s.mem a

/-- Store consecutive bytes from `a` upward. -/
def State.storeBytes (s : State) (a : Nat) (bs : List Byte) : State := s.setMem (Memory.writeList s.mem a bs)

/-- `PC <- p + 2` (R81). A fetch succeeds only with `PC <= 0xFFE`, so the sum never wraps when a step runs it
(R15, DEDUCED, log entry 6). -/
def State.advance (s : State) : State := s.setPc (s.pc + 2#16)

/-- `PC <- p + 4`: pass over one instruction (R69, R91). -/
def State.skipNext (s : State) : State := s.setPc (s.pc + 4#16)

/-- `PC <- c ? p + 4 : p + 2` (R87). -/
def State.skipIf (s : State) (c : Bool) : State := if c then s.skipNext else s.advance

/-! ## The call stack (R16, R17) -/

/-- `STACK[SP] <- w; SP <- SP + 1`, or nothing when all 16 entries are valid. -/
def State.push (s : State) (w : Word16) : Option State :=
  if h : s.sp.val < 16 then some { s with stack := s.stack.set s.sp.val w h, sp := ⟨s.sp.val + 1, by omega⟩ } else none

/-- `SP <- SP - 1` and the entry it then points at, which keeps its value; nothing when no entry is valid. -/
def State.pop (s : State) : Option (Word16 × State) :=
  if h : 0 < s.sp.val then
    some (s.stack[s.sp.val - 1]'(by have := s.sp.isLt; omega), { s with sp := ⟨s.sp.val - 1, by omega⟩ })
  else none

/-- `STACK[j]`. -/
def State.getStack (s : State) (j : Fin 16) : Word16 := s.stack[j]

/-! ## The framebuffer (R21, R141) -/

/-- A pixel's place: column and row. -/
abbrev Pixel := Fin 64 × Fin 32

/-- `FB[y][x]`. -/
def FrameBuffer.pixel (fb : FrameBuffer) (p : Pixel) : Bool := fb[p.2].getLsbD p.1.val

/-- `FB[y][x] <- FB[y][x] ^ 1`. -/
def FrameBuffer.flip (fb : FrameBuffer) (p : Pixel) : FrameBuffer :=
  fb.set p.2 (fb[p.2] ^^^ BitVec.twoPow 64 p.1.val)

/-- Every pixel off. -/
def FrameBuffer.blank : FrameBuffer := Vector.replicate 32 0#64

/-- `FB[y][x]` in the state. -/
def State.pixel (s : State) (p : Pixel) : Bool := FrameBuffer.pixel s.fb p

/-! ## Taking a fault (R186) -/

/-- The core is halted (R23, R187). -/
def State.halted (s : State) : Bool := decide (s.fault.kind ≠ FaultKind.none)

/-- `raise F(info)` in a step that fetched `word` (0 when the fetch faulted): `FAULT` records the fault, `PC` as it
stands, the word and the offending address, and nothing else changes (R186). There is no return: only `Reset`
clears `FAULT` (R189). -/
def State.raise (s : State) (k : FaultKind) (word : Word16) (addr : Nat) : State :=
  s.setFault { kind := k, pc := s.pc, word := word, addr := BitVec.ofNat 17 addr }

/-- The bounds check of R44 on the `n` bytes from `base`: `none` when all of them lie at or below 0xFFF (always when
`n` is 0), else the first offending address, `max(base, 0x1000)`. Sums are on unbounded integers (R47). -/
def outOfRange (base n : Nat) : Option Nat :=
  if 0 < n ∧ Config.addrMax < base + n - 1 then some (max base (Config.addrMax + 1)) else none

end Sys2Proof.Machine
end

