-- ==== Sys2Proof/Machine/Operands.lean ====
section
/-! DEFINITION. The operand forms (spec 30_encoding.md R65, 42_index_memory.md R124): registers and immediates, the implicit
`I` with ascending offset, the implicit `V[0]`, the key index, the glyph address, and a sprite's pixels. -/

namespace Sys2Proof.Machine

/-- `NNN` zero-extended to 16 bits (R65). -/
def addrOperand (nnn : Addr12) : Word16 := nnn.setWidth 16

/-- The address of the `k`-th byte of a transfer through `I`: `I + k` on unbounded integers (R47, R124). -/
def State.effAddr (s : State) (k : Nat) : Nat := s.i.toNat + k

/-- The target of `BNNN`: `NNN + V[0]`, no wrap (R86). -/
def State.offsetTarget (s : State) (nnn : Addr12) : Nat := nnn.toNat + (s.getV 0).toNat

/-- The operand of a shift: `V[Y]` under `Q_SHIFT_USES_VY`, else `V[X]` (R108, R110). -/
def State.shiftSource (s : State) (x y : Reg) : Byte := if s.quirks.shiftUsesVy then s.getV y else s.getV x

/-- The key a register names: its low nibble (R162). -/
def keyIndex (b : Byte) : Key := ⟨(b &&& 0x0F#8).toNat % 16, Nat.mod_lt _ (by decide)⟩

/-- `KEYS[k]` (R163). -/
def State.keyDown (s : State) (k : Key) : Bool := s.keys.getLsbD k.val

/-- The smallest `k` with `KEYS[k] = 1`, if any (R164). -/
def State.lowestKey (s : State) : Option Key := (List.finRange 16).find? fun k => s.keyDown k

/-- The address of the glyph for the low nibble of a register: `FONT_BASE + 5 * (V[X] & 0x0F)` (R122). -/
def glyphAddr (b : Byte) : Word16 := BitVec.ofNat 16 (fontBase + glyphStride * (b &&& 0x0F#8).toNat)

/-- The three decimal digits of a byte, hundreds first (R123). -/
def bcdDigits (b : Byte) : List Byte :=
  [BitVec.ofNat 8 (b.toNat / 100), BitVec.ofNat 8 (b.toNat / 10 % 10), BitVec.ofNat 8 (b.toNat % 10)]

/-- `V[0]` to `V[X]`, in ascending order (R125). -/
def State.regBlock (s : State) (x : Reg) : List Byte := s.v.toList.take (x.val + 1)

/-- The registers after a block load: `V[k]` is `MEM[I + k]` for `k` up to `X`, the rest as they are (R126). -/
def State.loadedRegs (s : State) (x : Reg) : Vector Byte 16 :=
  Vector.ofFn fun k : Reg => if k ≤ x then s.readByte (s.effAddr k.val) else s.getV k

/-! ## A sprite's pixels (R142, R143, R144) -/

/-- Where a sprite pixel that falls at column `x`, row `y` lands: wrapped to the opposite edge when `wrap` is set, else nowhere when it
lies past the right or bottom edge. -/
def landing (wrap : Bool) (x y : Nat) : Option Pixel :=
  if wrap then some (⟨x % 64, Nat.mod_lt _ (by decide)⟩, ⟨y % 32, Nat.mod_lt _ (by decide)⟩)
  else if h : x < 64 ∧ y < 32 then some (⟨x, h.1⟩, ⟨y, h.2⟩) else none

/-- The pixels one sprite byte flips when its leftmost pixel falls at column `x0` of row `y`: column `c` is bit `7 - c` (R142). -/
def rowPixels (wrap : Bool) (x0 y : Nat) (b : Byte) : List Pixel :=
  (List.range 8).filterMap fun c => if b.getLsbD (7 - c) then landing wrap (x0 + c) y else none

/-- The pixels `DXYN` flips, row by row: row `r` is the byte at `I + r`, starting at column `V[X] mod 64` and row
`V[Y] mod 32` (R143). -/
def State.spritePixels (s : State) (x y : Reg) (n : Nibble) : List Pixel :=
  (List.range n.toNat).flatMap fun r =>
    rowPixels s.quirks.drawWrap ((s.getV x).toNat % 64) ((s.getV y).toNat % 32 + r) (s.readByte (s.effAddr r))

end Sys2Proof.Machine
end

