-- ==== Sys2Proof/Machine/Flags.lean ====
section
/-! DEFINITION. Every flag computation (spec 10_state.md R11). `V[15]` is the only flag; it is written last, after the
result, and every operand is read before any write (41_alu.md R100). -/

namespace Sys2Proof.Machine

/-- The flag register (R11). -/
def flagReg : Reg := 15

/-- A condition as the flag's value, 1 or 0. -/
def flagByte (c : Bool) : Byte := if c then 1#8 else 0#8

/-- Carry of `8XY4`: 1 when the sum exceeds 255 (R106). -/
def carryFlag (a b : Byte) : Byte := flagByte (decide (255 < a.toNat + b.toNat))

/-- Flag of `8XY5` and `8XY7` for `a - b`: 1 when there is no borrow (R107, R109). -/
def notBorrowFlag (a b : Byte) : Byte := flagByte (decide (b.toNat ≤ a.toNat))

/-- Flag of `8XY6`: bit 0 of the shifted operand (R108). -/
def shiftedRightFlag (b : Byte) : Byte := flagByte (b.getLsbD 0)

/-- Flag of `8XYE`: bit 7 of the shifted operand (R110). -/
def shiftedLeftFlag (b : Byte) : Byte := flagByte (b.getLsbD 7)

/-- Flag of `DXYN`: 1 when a pixel that was on was turned off (R143). -/
def collisionFlag (hit : Bool) : Byte := flagByte hit

/-- `V[X] <- r`, then `V[0xF] <- f`: with `X = 0xF` the flag stays and the result is lost (R100). -/
def State.writeResultFlag (s : State) (x : Reg) (r f : Byte) : State := (s.setV x r).setV flagReg f

/-- `V[X] <- r`, then `V[0xF] <- 0` under `Q_LOGIC_RESETS_VF` (R103 to R105). -/
def State.writeLogicResult (s : State) (x : Reg) (r : Byte) : State :=
  if s.quirks.logicResetsVf then (s.setV x r).setV flagReg 0#8 else s.setV x r

end Sys2Proof.Machine
end

