-- ==== Sys2Proof/Machine/Alu.lean ====
section
/-! DEFINITION. Register, arithmetic, logic and random instructions (spec 41_alu.md): `6XNN`, `7XNN`, `8XY0` to `8XY7`, `8XYE`,
`CXNN`. All arithmetic is on unsigned bytes and wraps modulo 256 (R112). -/

namespace Sys2Proof.Machine

/-- `6XNN` (R101). -/
def execLdImm (x : Reg) (nn : Byte) (s : State) : Host.Outcome State Fault Refusal := .next (s.setV x nn).advance

/-- `8XY0` (R102). -/
def execLdReg (x y : Reg) (s : State) : Host.Outcome State Fault Refusal := .next (s.setV x (s.getV y)).advance

/-- `7XNN` (R111): no flag, even when the sum exceeds 255. -/
def execAddImm (x : Reg) (nn : Byte) (s : State) : Host.Outcome State Fault Refusal :=
  .next (s.setV x (s.getV x + nn)).advance

/-- `8XY1` (R103). -/
def execOrReg (x y : Reg) (s : State) : Host.Outcome State Fault Refusal :=
  .next (s.writeLogicResult x (s.getV x ||| s.getV y)).advance

/-- `8XY2` (R104). -/
def execAndReg (x y : Reg) (s : State) : Host.Outcome State Fault Refusal :=
  .next (s.writeLogicResult x (s.getV x &&& s.getV y)).advance

/-- `8XY3` (R105). -/
def execXorReg (x y : Reg) (s : State) : Host.Outcome State Fault Refusal :=
  .next (s.writeLogicResult x (s.getV x ^^^ s.getV y)).advance

/-- `8XY4` (R106). -/
def execAddReg (x y : Reg) (s : State) : Host.Outcome State Fault Refusal :=
  .next (s.writeResultFlag x (s.getV x + s.getV y) (carryFlag (s.getV x) (s.getV y))).advance

/-- `8XY5` (R107). -/
def execSubReg (x y : Reg) (s : State) : Host.Outcome State Fault Refusal :=
  .next (s.writeResultFlag x (s.getV x - s.getV y) (notBorrowFlag (s.getV x) (s.getV y))).advance

/-- `8XY7` (R109). -/
def execSubnReg (x y : Reg) (s : State) : Host.Outcome State Fault Refusal :=
  .next (s.writeResultFlag x (s.getV y - s.getV x) (notBorrowFlag (s.getV y) (s.getV x))).advance

/-- `8XY6` (R108): logical, by one position. -/
def execShr (x y : Reg) (s : State) : Host.Outcome State Fault Refusal :=
  .next (s.writeResultFlag x (s.shiftSource x y >>> 1) (shiftedRightFlag (s.shiftSource x y))).advance

/-- `8XYE` (R110): by one position, bit 0 of the result is 0. -/
def execShl (x y : Reg) (s : State) : Host.Outcome State Fault Refusal :=
  .next (s.writeResultFlag x (s.shiftSource x y <<< 1) (shiftedLeftFlag (s.shiftSource x y))).advance

/-- `CXNN` with the random byte `r` as the step's input (R115). -/
def rndWith (r : Byte) (x : Reg) (nn : Byte) (s : State) : State := ((s.setV x (r &&& nn)).advance).consumeRnd

/-- `CXNN` (R115): the byte is free (DESIGN CHOICE, log entry 2). -/
def execRnd (x : Reg) (nn : Byte) (s : State) : Host.Outcome State Fault Refusal :=
  .next (rndWith (Config.rnd s.rndCount) x nn s)

end Sys2Proof.Machine
end

