-- ==== Sys2Proof/Machine/ControlFlow.lean ====
section
/-! DEFINITION. Control transfer (spec 40_step_and_control_flow.md): `00EE`, `1NNN`, `2NNN`, `BNNN`, `3XNN`, `4XNN`, `5XY0`, `9XY0`. A fault
records the instruction's own word, which is the word fetched (DEDUCED, log entry 4). -/

namespace Sys2Proof.Machine

/-- `1NNN` (R82). -/
def execJp (nnn : Addr12) (s : State) : Host.Outcome State Fault Refusal := .next (s.setPc (addrOperand nnn))

/-- `BNNN` (R86): the computed target is checked when the instruction executes. -/
def execJpV0 (nnn : Addr12) (s : State) : Host.Outcome State Fault Refusal :=
  if Config.addrMax < s.offsetTarget nnn then
    .next (s.raise .outOfBounds (encode (.jpV0 nnn)) (s.offsetTarget nnn))
  else .next (s.setPc (BitVec.ofNat 16 (s.offsetTarget nnn)))

/-- `2NNN` (R83): push the address of the next instruction. -/
def execCall (nnn : Addr12) (s : State) : Host.Outcome State Fault Refusal :=
  match s.push (s.pc + 2#16) with
  | some t => .next (t.setPc (addrOperand nnn))
  | none => .next (s.raise .stackOverflow (encode (.call nnn)) 0)

/-- `00EE` (R84): nothing is added to the popped value. -/
def execRet (s : State) : Host.Outcome State Fault Refusal :=
  match s.pop with
  | some (w, t) => .next (t.setPc w)
  | none => .next (s.raise .stackUnderflow (encode .ret) 0)

/-- `3XNN` (R87). -/
def execSeImm (x : Reg) (nn : Byte) (s : State) : Host.Outcome State Fault Refusal :=
  .next (s.skipIf (decide (s.getV x = nn)))

/-- `4XNN` (R88). -/
def execSneImm (x : Reg) (nn : Byte) (s : State) : Host.Outcome State Fault Refusal :=
  .next (s.skipIf (decide (s.getV x ≠ nn)))

/-- `5XY0` (R89). -/
def execSeReg (x y : Reg) (s : State) : Host.Outcome State Fault Refusal :=
  .next (s.skipIf (decide (s.getV x = s.getV y)))

/-- `9XY0` (R90). -/
def execSneReg (x y : Reg) (s : State) : Host.Outcome State Fault Refusal :=
  .next (s.skipIf (decide (s.getV x ≠ s.getV y)))

end Sys2Proof.Machine
end

