-- ==== Sys2Proof/Machine/Display.lean ====
section
/-! DEFINITION. Display instructions and the sprite blitter (spec 43_display.md): `00E0`, `DXYN`. -/

namespace Sys2Proof.Machine

/-- The framebuffer while a sprite is drawn, and whether a pixel that was on has been turned off. -/
structure Blit where
  fb : FrameBuffer
  hit : Bool
  deriving DecidableEq, Repr

/-- One sprite pixel: test it for collision, then flip it (R143). -/
def Blit.flip (b : Blit) (p : Pixel) : Blit := { fb := FrameBuffer.flip b.fb p, hit := b.hit || FrameBuffer.pixel b.fb p }

/-- Flip each pixel of the list, in order. -/
def blit (fb : FrameBuffer) (ps : List Pixel) : Blit := ps.foldl Blit.flip { fb := fb, hit := false }

/-- `00E0` (R140). -/
def execCls (s : State) : Host.Outcome State Fault Refusal := .next (s.setFb FrameBuffer.blank).advance

/-- `DXYN` (R143): operands are read first, the flag is written last; all `N` bytes are checked, also those whose
rows are clipped (R147); `N = 0` reads and draws nothing (R145). -/
def execDrw (x y : Reg) (n : Nibble) (s : State) : Host.Outcome State Fault Refusal :=
  match outOfRange s.i.toNat n.toNat with
  | some a => .next (s.raise .outOfBounds (encode (.drw x y n)) a)
  | none =>
    .next (((s.setFb (blit s.fb (s.spritePixels x y n)).fb).setV flagReg
      (collisionFlag (blit s.fb (s.spritePixels x y n)).hit)).advance)

end Sys2Proof.Machine
end

