-- ==== Sys2Proof/Machine/IndexMemory.lean ====
section
/-! DEFINITION. Index register and memory instructions (spec 42_index_memory.md): `ANNN`, `FX1E`, `FX29`, `FX33`, `FX55`,
`FX65`. The whole range is checked before the first byte moves (20_memory.md R44, R47). -/

namespace Sys2Proof.Machine

/-- `ANNN` (R120). -/
def execLdI (nnn : Addr12) (s : State) : Host.Outcome State Fault Refusal := .next (s.setI (addrOperand nnn)).advance

/-- `FX1E` (R121): modulo 65536, no flag, no fault. -/
def execAddI (x : Reg) (s : State) : Host.Outcome State Fault Refusal :=
  .next (s.setI (s.i + (s.getV x).setWidth 16)).advance

/-- `FX29` (R122). -/
def execLdF (x : Reg) (s : State) : Host.Outcome State Fault Refusal := .next (s.setI (glyphAddr (s.getV x))).advance

/-- `FX33` (R123). -/
def execLdB (x : Reg) (s : State) : Host.Outcome State Fault Refusal :=
  match outOfRange s.i.toNat 3 with
  | some a => .next (s.raise .outOfBounds (encode (.ldB x)) a)
  | none => .next (s.storeBytes (s.effAddr 0) (bcdDigits (s.getV x))).advance

/-- `I <- I + X + 1` under `Q_LOADSTORE_INC_I` (R125, R126). -/
def State.bumpI (s : State) (x : Reg) : State :=
  if s.quirks.loadStoreIncI then s.setI (s.i + BitVec.ofNat 16 (x.val + 1)) else s

/-- `FX55` (R125). -/
def execStoreRegs (x : Reg) (s : State) : Host.Outcome State Fault Refusal :=
  match outOfRange s.i.toNat (x.val + 1) with
  | some a => .next (s.raise .outOfBounds (encode (.storeRegs x)) a)
  | none => .next ((s.storeBytes (s.effAddr 0) (s.regBlock x)).bumpI x).advance

/-- `FX65` (R126): registers above `X` are unchanged. -/
def execLoadRegs (x : Reg) (s : State) : Host.Outcome State Fault Refusal :=
  match outOfRange s.i.toNat (x.val + 1) with
  | some a => .next (s.raise .outOfBounds (encode (.loadRegs x)) a)
  | none => .next ((s.setAllV (s.loadedRegs x)).bumpI x).advance

end Sys2Proof.Machine
end

