-- ==== Sys2Proof/Machine/KeypadTimers.lean ====
section
/-! DEFINITION. Keypad and timer instructions (spec 44_keypad_timers.md): `EX9E`, `EXA1`, `FX0A`, `FX07`, `FX15`, `FX18`. Reading the
keypad has no side effect (R163). -/

namespace Sys2Proof.Machine

/-- `EX9E` (R160). -/
def execSkp (x : Reg) (s : State) : Host.Outcome State Fault Refusal :=
  .next (s.skipIf (s.keyDown (keyIndex (s.getV x))))

/-- `EXA1` (R161). -/
def execSknp (x : Reg) (s : State) : Host.Outcome State Fault Refusal :=
  .next (s.skipIf (!s.keyDown (keyIndex (s.getV x))))

/-- `FX0A` (R164): with no key down nothing at all changes, so the next step executes it again; else the lowest key
held is stored. -/
def execLdVxK (x : Reg) (s : State) : Host.Outcome State Fault Refusal :=
  match s.lowestKey with
  | none => .next s
  | some k => .next (s.setV x (BitVec.ofNat 8 k.val)).advance

/-- `FX07` (R165). -/
def execLdVxDt (x : Reg) (s : State) : Host.Outcome State Fault Refusal := .next (s.setV x s.dt).advance

/-- `FX15` (R166). -/
def execLdDtVx (x : Reg) (s : State) : Host.Outcome State Fault Refusal := .next (s.setDt (s.getV x)).advance

/-- `FX18` (R167). -/
def execLdStVx (x : Reg) (s : State) : Host.Outcome State Fault Refusal := .next (s.setSt (s.getV x)).advance

end Sys2Proof.Machine
end

