-- ==== Sys2Proof/Machine/Fetch.lean ====
section
/-! DEFINITION. Fetching, decoding and running the instruction at `PC` (spec 40_step_and_control_flow.md R80), and placing a
word where the next fetch reads it. -/

namespace Sys2Proof.Machine

/-- What the fetch and the decode of a step find. -/
inductive Fetched where
  /-- a byte of the word would lie above 0xFFF; the first such address -/
  | outOfBounds (addr : Nat)
  /-- the word matches no row of the opcode map -/
  | illegal (w : Word16)
  /-- an instruction -/
  | instr (i : Instr)
  deriving DecidableEq, Repr

/-- The word at an address both of whose bytes exist, big-endian (R42). -/
def State.wordAt (s : State) (a : Nat) : Word16 := wordOfBytes (s.readByte a) (s.readByte (a + 1))

/-- The first two lines of R80, then `decode`: the checks in the order of R188. -/
def State.fetchDecode (s : State) : Fetched :=
  if Config.addrMax < s.pc.toNat then .outOfBounds s.pc.toNat
  else if s.pc.toNat = Config.addrMax then .outOfBounds (Config.addrMax + 1)
  else
    match decodeWord (s.wordAt s.pc.toNat) with
    | .ok i => .instr i
    | .error _ => .illegal (s.wordAt s.pc.toNat)

/-- The rest of a step (R80): a fetch out of bounds raises `OutOfBounds` with word 0 (R184), an illegal word raises
`UnknownOpcode` (R181; DEDUCED, log entry 16), an instruction runs by its own rule. -/
def State.runFetched (s : State) : Fetched → Host.Outcome State Fault Refusal
  | .outOfBounds a => .next (s.raise .outOfBounds 0x0000#16 a)
  | .illegal w => .next (s.raise .unknownOpcode w 0)
  | .instr i => exec i s

/-- A state that can fetch: a halted core gets its `FAULT` cleared and a `PC` above 0xFFE becomes the entry point; any
other state is itself (DESIGN CHOICE, log entry 11). -/
def State.fetchReady (s : State) : State :=
  let s1 := if s.halted then s.setFault FaultRecord.clear else s
  if Config.addrMax ≤ s1.pc.toNat then s1.setPc (BitVec.ofNat 16 Config.entry) else s1

/-- A word laid at `PC`, high byte at the lower address (R42). -/
def State.placeWord (s : State) (w : Word16) : State := s.storeBytes s.pc.toNat [highByte w, lowByte w]

end Sys2Proof.Machine
end

