-- ==== Sys2Proof/Machine/Step.lean ====
section
/-! DEFINITION. One step: fetch, decode, execute exactly one instruction (spec 40_step_and_control_flow.md R80). -/

namespace Sys2Proof.Machine

/-- `Step` (R80): no effect while halted (R187); else fetch, decode and run. `exec` itself does not look at the halted
state (DESIGN CHOICE, log entry 10). -/
def step (s : State) : Host.Outcome State Fault Refusal :=
  if s.halted then .next s else s.runFetched s.fetchDecode

/-- The state with the table word `w` where `step` fetches next, made able to fetch if it could not (DESIGN CHOICE, log entry 11). -/
def State.withFetchWord (s : State) (nbits w : Nat) : State := s.fetchReady.placeWord (tableWord nbits w)

end Sys2Proof.Machine
end

