-- ==== Sys2Proof/Machine/Events.lean ====
section
/-! DEFINITION. The five events by which the host drives the core (spec 10_state.md R30, R31), the timer tick
(60_exceptions.md R195), boot (70_reset_and_hazards.md R210 to R214), and the outputs the host reads (R32). Events are atomic and
totally ordered; the host picks the order. -/

namespace Sys2Proof.Machine

/-! ## The events -/

/-- A timer's next value at a tick: one less, and 0 stays 0 (R195). -/
def countDown (b : Byte) : Byte := if b = 0#8 then 0#8 else b - 1#8

/-- `Tick` (R195): both timers count down; no effect while halted (R187). -/
def State.tick (s : State) : State := if s.halted then s else (s.setDt (countDown s.dt)).setSt (countDown s.st)

/-- `Reset` (R210): every piece of state takes its reset value. The parameters are not state and stay (R212); the
count of random bytes consumed is not the core's and stays too (DESIGN CHOICE, log entry 12). -/
def State.resetEvent (s : State) : State := { State.reset with quirks := s.quirks, rndCount := s.rndCount }

/-- `LoadImage(bytes)` (R31, R213): the bytes from 0x200 upward, nothing else; refused when they do not fit. -/
def State.loadImage (s : State) (bytes : List Byte) : Host.Outcome State Fault Refusal :=
  if bytes.length ≤ Config.imageMax then .next (s.storeBytes Config.entry bytes) else .refused .imageTooLarge

/-- `Step(rnd)` with its input given (R7, R80, R115): only `CXNN` consumes it, every other step ignores it. -/
def State.stepWith (s : State) (rnd : Byte) : Host.Outcome State Fault Refusal :=
  if s.halted then .next s
  else
    match s.fetchDecode with
    | .instr (.rnd x nn) => .next (rndWith rnd x nn s)
    | f => s.runFetched f

/-- An event (R31). -/
inductive Event where
  /-- `Reset` -/
  | reset
  /-- `LoadImage(bytes)` -/
  | loadImage (bytes : List Byte)
  /-- `SetKeys(k)` -/
  | setKeys (k : BitVec 16)
  /-- `Step(rnd)` -/
  | step (rnd : Byte)
  /-- `Tick` -/
  | tick
  deriving DecidableEq, Repr

/-- What an event does (R31). -/
def State.event (s : State) : Event → Host.Outcome State Fault Refusal
  | .reset => .next s.resetEvent
  | .loadImage bytes => s.loadImage bytes
  | .setKeys k => .next (s.setKeys k)
  | .step rnd => s.stepWith rnd
  | .tick => .next s.tick

/-- The state an outcome leaves: a refused event changes nothing (R31). -/
def State.landed (s : State) : Host.Outcome State Fault Refusal → State
  | .next t => t
  | .fault _ => s
  | .refused _ => s

/-- The state after an event. -/
def State.after (s : State) (e : Event) : State := s.landed (s.event e)

/-- The state after a sequence of events, in order (R30). -/
def State.afterAll (s : State) (es : List Event) : State := es.foldl State.after s

/-- The events the host may still deliver (R31, R213): `LoadImage` only directly after `Reset` (`fresh`), so at most
once a run; the other four at any time. What an event does where it is not legal is not the spec's (DESIGN CHOICE, log
entry 13). -/
def legalFrom (fresh : Bool) : List Event → Bool
  | [] => true
  | .reset :: es => legalFrom true es
  | .loadImage _ :: es => fresh && legalFrom false es
  | .setKeys _ :: es => legalFrom false es
  | .step _ :: es => legalFrom false es
  | .tick :: es => legalFrom false es

/-- A legal sequence of events: it begins with `Reset`, before which no other event is legal (R211, R214). -/
def legalRun : List Event → Bool
  | .reset :: es => legalFrom true es
  | _ => false

/-! ## Outputs (R32) -/

/-- `sound_on`: 1 exactly when `ST != 0` (R198). -/
def State.soundOn (s : State) : Bool := decide (s.st ≠ 0#8)

/-- `FAULT.kind` as its number (R23, R180). -/
def FaultKind.code : FaultKind → BitVec 3
  | .none => 0#3
  | .unknownOpcode => 1#3
  | .stackOverflow => 2#3
  | .stackUnderflow => 3#3
  | .outOfBounds => 4#3

/-- Everything the host may read between events (R32): any pixel, the sound level, and the fault record. -/
structure Outputs where
  fb : FrameBuffer
  soundOn : Bool
  halted : Bool
  faultKind : BitVec 3
  faultPc : Word16
  faultWord : Word16
  faultAddr : BitVec 17
  deriving DecidableEq, Repr

/-- The outputs of a state; reading them has no side effect (R32). -/
def State.outputs (s : State) : Outputs :=
  { fb := s.fb, soundOn := s.soundOn, halted := s.halted, faultKind := s.fault.kind.code, faultPc := s.fault.pc,
    faultWord := s.fault.word, faultAddr := s.fault.addr }

end Sys2Proof.Machine
end

