-- ==== Sys2Proof/Machine/Ports.lean ====
section
/-! DEFINITION. The signal-level rendering of the events (spec 10_state.md R33, R34), which the spec gives as one way to
realise them; no other file of the model depends on it. -/

namespace Sys2Proof.Machine

/-- The input ports at one clock edge (R33). -/
structure PortsIn where
  /-- synchronous reset -/
  reset : Bool
  /-- loader write enable -/
  ldWe : Bool
  /-- loader address; the loader keeps it at or above 0x200 -/
  ldAddr : Addr12
  /-- loader data -/
  ldData : Byte
  /-- the keys -/
  keys : BitVec 16
  /-- strobe: perform one `Step` -/
  step : Bool
  /-- the random byte, sampled with `step` -/
  rnd : Byte
  /-- strobe: perform one `Tick` -/
  tick : Bool
  deriving Repr

/-- What one clock edge does (R33): `Reset` while `reset` is 1; else the loader's write; the keys sampled when neither
strobe is given; `Step`, then `Tick`, so both strobes together are `Step` followed by `Tick` (R34). What the table of
R33 does not order is DESIGN CHOICE, log entry 14. This is the effect of an edge that the loader may give: that the
write is done here also outside the loader's window, which the spec leaves open, is DESIGN CHOICE, log entry 17. A run
of the ports (`State.clockEdges`) has no such edge. -/
def State.clockEdge (s : State) (p : PortsIn) : State :=
  if p.reset then s.resetEvent
  else
    let s1 := if p.ldWe then s.storeBytes p.ldAddr.toNat [p.ldData] else s
    let s2 := if p.step || p.tick then s1 else s1.setKeys p.keys
    let s3 := if p.step then s2.after (.step p.rnd) else s2
    if p.tick then s3.tick else s3

/-- The loader keeps R33 at this edge: `ld_we` only inside its window, with no `reset` and no strobe at the same edge, and
with `ld_addr` at or above 0x200. -/
def PortsIn.loaderOk (p : PortsIn) (window : Bool) : Bool :=
  !p.ldWe || (window && !p.reset && !p.step && !p.tick && decide (Config.entry ≤ p.ldAddr.toNat))

/-- Whether the loader's window is open after this edge: it opens at `reset` and closes at the first strobe (R33). -/
def PortsIn.windowAfter (p : PortsIn) (window : Bool) : Bool := p.reset || (window && !p.step && !p.tick)

/-- A sequence of clock edges. An edge at which the loader may not write is no move of the model (R55, R221; "the model
has no such move", 93_implementation_defined.md U10): `none`. -/
def State.clockEdges (s : State) (window : Bool) : List PortsIn → Option State
  | [] => some s
  | p :: ps => if p.loaderOk window then (s.clockEdge p).clockEdges (p.windowAfter window) ps else none

/-- A run of the ports: its first edge performs `Reset`, before which nothing is legal (R211). -/
def State.portRun (s : State) : List PortsIn → Option State
  | [] => none
  | p :: ps => if p.reset then s.clockEdges false (p :: ps) else none

/-- `fb_pixel`: the combinational read of `FB[fb_y][fb_x]` (R33). -/
def State.fbPixel (s : State) (x : Fin 64) (y : Fin 32) : Bool := s.pixel (x, y)

end Sys2Proof.Machine
end

