-- ==== Sys2Proof/Safety.lean ====
section
/-! DEFINITION. The terms claims use: what a safe run is, the invariant of R29, a piece of state and what leaves it
unchanged, and which pieces an instruction may write (the access matrix of R28). -/

namespace Sys2Proof.Machine

/-- A safe state: no fault has been raised. "A halted state is never a successful end of a run" (R187). -/
def State.Safe (s : State) : Prop := s.fault.kind = .none

/-- The valid stack entries are return addresses: none above 0x1000 (R29 d). -/
def State.StackOk (s : State) : Prop := ∀ j : Fin 16, j.val < s.sp.val → (s.getStack j).toNat ≤ 0x1000

/-- The invariant of every reachable state (R29): `PC` at most 0x1002, valid return addresses at most 0x1000, and the
memory in its canonical form, which is the model's own clause (DEDUCED, log entry 8). That `SP` is at most 16 and each register in its width is in the types. -/
structure State.Inv (s : State) : Prop where
  pcBound : s.pc.toNat ≤ 0x1002
  stackOk : s.StackOk
  memWf : Memory.wf s.mem = true

/-- One piece of state. -/
inductive Part where
  | v (x : Reg)
  | i
  | pc
  | sp
  | stack (j : Fin 16)
  | dt
  | st
  | keys
  | fb (p : Pixel)
  | mem (a : Nat)
  | fault
  | quirks
  | rndCount
  deriving DecidableEq, Repr

/-- The piece reads the same in both states. -/
def Part.Same (s t : State) : Part → Prop
  | .v x => t.getV x = s.getV x
  | .i => t.i = s.i
  | .pc => t.pc = s.pc
  | .sp => t.sp = s.sp
  | .stack j => t.getStack j = s.getStack j
  | .dt => t.dt = s.dt
  | .st => t.st = s.st
  | .keys => t.keys = s.keys
  | .fb p => t.pixel p = s.pixel p
  | .mem a => t.readByte a = s.readByte a
  | .fault => t.fault = s.fault
  | .quirks => t.quirks = s.quirks
  | .rndCount => t.rndCount = s.rndCount

/-- FRAME: every piece of state outside `changed` reads in `t` as it did in `s`: every register, flag, special register,
stack entry, pixel and byte of memory. -/
def Frame (s t : State) (changed : Part → Prop) : Prop := ∀ p, ¬ changed p → p.Same s t

/-- `PC <- p + k`, without wrap wherever a fetch can succeed (R15, R81). -/
def Advances (s t : State) (k : Nat) : Prop :=
  t.pc = s.pc + BitVec.ofNat 16 k ∧ (s.pc.toNat ≤ 0xFFE → k ≤ 4 → t.pc.toNat = s.pc.toNat + k)

/-- Only `PC` may differ. -/
def onlyPc : Part → Prop := fun p => p = .pc

/-- Only `PC` and `V[x]` may differ. -/
def onlyReg (x : Reg) : Part → Prop := fun p => p = .pc ∨ p = .v x

/-- Only `PC`, `V[x]` and the flag may differ. -/
def onlyRegFlag (x : Reg) : Part → Prop := fun p => p = .pc ∨ p = .v x ∨ p = .v flagReg

/-- Only `PC` and `I` may differ. -/
def onlyI : Part → Prop := fun p => p = .pc ∨ p = .i

/-- Taking a fault (R186): `FAULT` holds these values and every other piece of state is as before, `PC` included. -/
def Raised (s t : State) (k : FaultKind) (word : Word16) (addr : Nat) : Prop :=
  t.fault.kind = k ∧ t.fault.pc = s.pc ∧ t.fault.word = word ∧ t.fault.addr.toNat = addr ∧ Frame s t (fun p => p = .fault)

/-- The instruction's word lies in the row with this match and mask (R63). -/
def InRow (i : Instr) (pattern mask : Word16) : Prop := encode i &&& mask = pattern

/-- The pieces of state an instruction may write when it runs without raising, besides `PC`: the columns "w" of the
access matrix of R28. -/
def writes (i : Instr) (s : State) (p : Part) : Prop :=
  match i with
  | .cls => ∃ q, p = .fb q
  | .ret => p = .sp
  | .jp _ => False
  | .call _ => p = .sp ∨ ∃ j : Fin 16, j.val = s.sp.val ∧ p = .stack j
  | .seImm _ _ => False
  | .sneImm _ _ => False
  | .seReg _ _ => False
  | .ldImm x _ => p = .v x
  | .addImm x _ => p = .v x
  | .ldReg x _ => p = .v x
  | .orReg x _ => p = .v x ∨ (s.quirks.logicResetsVf = true ∧ p = .v flagReg)
  | .andReg x _ => p = .v x ∨ (s.quirks.logicResetsVf = true ∧ p = .v flagReg)
  | .xorReg x _ => p = .v x ∨ (s.quirks.logicResetsVf = true ∧ p = .v flagReg)
  | .addReg x _ => p = .v x ∨ p = .v flagReg
  | .subReg x _ => p = .v x ∨ p = .v flagReg
  | .shr x _ => p = .v x ∨ p = .v flagReg
  | .subnReg x _ => p = .v x ∨ p = .v flagReg
  | .shl x _ => p = .v x ∨ p = .v flagReg
  | .sneReg _ _ => False
  | .ldI _ => p = .i
  | .jpV0 _ => False
  | .rnd x _ => p = .v x ∨ p = .rndCount
  | .drw _ _ _ => p = .v flagReg ∨ ∃ q, p = .fb q
  | .skp _ => False
  | .sknp _ => False
  | .ldVxDt x => p = .v x
  | .ldVxK x => p = .v x
  | .ldDtVx _ => p = .dt
  | .ldStVx _ => p = .st
  | .addI _ => p = .i
  | .ldF _ => p = .i
  | .ldB _ => ∃ k : Nat, k < 3 ∧ p = .mem (s.effAddr k)
  | .storeRegs x => (∃ k : Nat, k ≤ x.val ∧ p = .mem (s.effAddr k)) ∨ (s.quirks.loadStoreIncI = true ∧ p = .i)
  | .loadRegs x => (∃ k : Reg, k ≤ x ∧ p = .v k) ∨ (s.quirks.loadStoreIncI = true ∧ p = .i)

/-- The fault an instruction can raise when it executes (R194). -/
def canRaise (i : Instr) (k : FaultKind) : Prop :=
  match i with
  | .call _ => k = .stackOverflow
  | .ret => k = .stackUnderflow
  | .jpV0 _ => k = .outOfBounds
  | .drw _ _ n => n ≠ 0#4 ∧ k = .outOfBounds
  | .ldB _ => k = .outOfBounds
  | .storeRegs _ => k = .outOfBounds
  | .loadRegs _ => k = .outOfBounds
  | _ => False

/-- Executing `i` raises `OutOfBounds` with this offending address (R44). -/
def RaisesAt (i : Instr) (s : State) (a : Nat) : Prop :=
  ∃ t, exec i s = .next t ∧ t.fault.kind = .outOfBounds ∧ t.fault.addr.toNat = a

/-- Executing `i` leaves `FAULT` as it was. -/
def RunsClear (i : Instr) (s : State) : Prop := ∃ t, exec i s = .next t ∧ t.fault = s.fault

/-- Neither a jump, a call, a return, a skip nor the key wait: the instructions that end with `PC <- p + 2` (R81). -/
def sequential : Instr → Bool
  | .jp _ => false
  | .jpV0 _ => false
  | .call _ => false
  | .ret => false
  | .seImm _ _ => false
  | .sneImm _ _ => false
  | .seReg _ _ => false
  | .sneReg _ _ => false
  | .skp _ => false
  | .sknp _ => false
  | .ldVxK _ => false
  | _ => true

/-- The sprite of `DXYN` covers pixel `p`: some set bit `7 - c` of some row `r` lands on it, wrapped or clipped by
`Q_DRAW_WRAP` (R143, R144), said without the blitter's loop. -/
def State.Covers (s : State) (x y : Reg) (n : Nibble) (p : Pixel) : Prop :=
  ∃ r c : Nat, r < n.toNat ∧ c < 8 ∧ (s.readByte (s.effAddr r)).getLsbD (7 - c) = true ∧
    (if s.quirks.drawWrap then
      p.1.val = ((s.getV x).toNat % 64 + c) % 64 ∧ p.2.val = ((s.getV y).toNat % 32 + r) % 32
    else p.1.val = (s.getV x).toNat % 64 + c ∧ p.2.val = (s.getV y).toNat % 32 + r)

/-- The keypad latch after a sequence of events that began with `k`: what the latest `SetKeys` wrote (R163). -/
def lastKeys (k : BitVec 16) : List Event → BitVec 16
  | [] => k
  | .setKeys k' :: es => lastKeys k' es
  | _ :: es => lastKeys k es

/-- Execute instructions one after another, as consecutive steps would (R30). -/
def execAll : List Instr → State → Host.Outcome State Fault Refusal
  | [], s => .next s
  | i :: is, s =>
    match exec i s with
    | .next t => execAll is t
    | .fault r => .fault r
    | .refused r => .refused r

end Sys2Proof.Machine
end

