-- ==== Sys2Proof/Certificates/Slice0/Obligations.lean ====
section
/-! DEFINITION. The statements for the provers. Each docstring names the rule of the spec it formalises. Where a rule
carries a mark of the spec's own (a decision D<n> of 92_eei_decisions.md, general knowledge G<n> of
93_implementation_defined.md, or "derived"), the docstring says so and the statement's basis is "derived". Every statement about an
instruction holds for every value of the four parameters of R6 and of the free random byte. -/

open Sys2Proof Sys2Proof.Machine

/-! ## Encoding -/

/-- R60, R63, R64 (bit patterns: D33, G1). Decoding the two bytes of an instruction, whatever bytes follow, gives the
instruction back with every operand, and those bytes. -/
def Obligations.DecodeOfEncodeIsTheInstruction : Prop :=
  ∀ (i : Instr) (rest : List Byte), decode (encodeBytes i ++ rest) = .ok (i, rest)

/-- R63, R68 (D33, derived). A legal word is the word of the instruction it decodes to: no bit of it is dropped, so
the word a fault records is the word fetched (log entry 4). -/
def Obligations.EncodeOfDecodeIsTheWord : Prop :=
  ∀ (w : Word16) (i : Instr), decodeWord w = .ok i → encode i = w

/-- R63 (D33, G1). The decoder reads the table: a word decodes to an instruction of a row exactly when it selects that
row by mask and match, and so no word selects two rows. -/
def Obligations.DecoderReadsTheOpcodeTable : Prop :=
  (∀ (w : Word16) (i : Instr), decodeWord w = .ok i → i.row ∈ opcodeRows ∧ i.row.selects w = true) ∧
  (∀ (w : Word16) (r : OpcodeRow), r ∈ opcodeRows → r.selects w = true → ∃ i, decodeWord w = .ok i ∧ i.row = r) ∧
  (∀ (w : Word16) (r r' : OpcodeRow), r ∈ opcodeRows → r' ∈ opcodeRows → r.selects w = true → r'.selects w = true → r = r')

/-- R66, R67 (D13, D14). The illegal words are exactly those of the table of R66, family by family. -/
def Obligations.IllegalWordsAreExactlyTheTable : Prop :=
  ∀ w : Word16, decodeWord w = .error (.unknownOpcode w) ↔
    (fieldOp w = 0x0#4 ∧ fieldNNN w ≠ 0x0E0#12 ∧ fieldNNN w ≠ 0x0EE#12) ∨
    (fieldOp w = 0x5#4 ∧ fieldN w ≠ 0x0#4) ∨
    (fieldOp w = 0x8#4 ∧ fieldN w ∈ [0x8#4, 0x9#4, 0xA#4, 0xB#4, 0xC#4, 0xD#4, 0xF#4]) ∨
    (fieldOp w = 0x9#4 ∧ fieldN w ≠ 0x0#4) ∨
    (fieldOp w = 0xE#4 ∧ fieldNN w ∉ [0x9E#8, 0xA1#8]) ∨
    (fieldOp w = 0xF#4 ∧ fieldNN w ∉ [0x07#8, 0x0A#8, 0x15#8, 0x18#8, 0x1E#8, 0x29#8, 0x33#8, 0x55#8, 0x65#8])

/-- Vectors E1 to E13 of 95_test_vectors.md (D33). Words written out from the spec's encodings decode to the instruction they stand
for, and the all-zero word to none. -/
def Obligations.WordsOfTheSpecDecode : Prop :=
  decodeWord 0x00E0#16 = .ok .cls ∧ decodeWord 0x00EE#16 = .ok .ret ∧ decodeWord 0x1228#16 = .ok (.jp 0x228#12) ∧
  decodeWord 0x2ABC#16 = .ok (.call 0xABC#12) ∧ decodeWord 0x3A7F#16 = .ok (.seImm 10 0x7F#8) ∧
  decodeWord 0x5AB0#16 = .ok (.seReg 10 11) ∧ decodeWord 0x8AB4#16 = .ok (.addReg 10 11) ∧
  decodeWord 0x8ABE#16 = .ok (.shl 10 11) ∧ decodeWord 0xD125#16 = .ok (.drw 1 2 5#4) ∧
  decodeWord 0xE19E#16 = .ok (.skp 1) ∧ decodeWord 0xFF65#16 = .ok (.loadRegs 15) ∧
  decodeWord 0xF00A#16 = .ok (.ldVxK 0) ∧ decodeWord 0x0000#16 = .error (.unknownOpcode 0x0000#16)

/-! ## The step cycle -/

/-- R80, R42. A running core whose bytes at `PC` decode to an instruction runs that instruction: the step adds nothing around
it (each rule writes its own `PC`, R81). -/
def Obligations.StepRunsTheDecodedInstruction : Prop :=
  ∀ (s : State) (i : Instr), s.halted = false → s.pc.toNat ≤ 0xFFE →
    decode [s.readByte s.pc.toNat, s.readByte (s.pc.toNat + 1)] = .ok (i, []) → step s = exec i s

/-- R80, whole: the halted test, the two fetch faults with their record, the big-endian word, the illegal word, the
execution of the decoded instruction, which completes or raises and writes nothing else, and that a step changes `DT`
only through `FX15` and `ST` only through `FX18`. -/
def Obligations.StepCycleOfTheSpec : Prop :=
  ∀ s : State,
    (s.halted = true → step s = .next s) ∧
    (s.halted = false → 0xFFF < s.pc.toNat → ∃ t, step s = .next t ∧ Raised s t .outOfBounds 0x0000#16 s.pc.toNat) ∧
    (s.halted = false → s.pc.toNat = 0xFFF → ∃ t, step s = .next t ∧ Raised s t .outOfBounds 0x0000#16 0x1000) ∧
    (s.halted = false → s.pc.toNat < 0xFFF →
      ∀ w : Word16, w.toNat = (s.readByte s.pc.toNat).toNat * 256 + (s.readByte (s.pc.toNat + 1)).toNat →
        (∀ e, decodeWord w = .error e → ∃ t, step s = .next t ∧ Raised s t .unknownOpcode w 0) ∧
        (∀ i, decodeWord w = .ok i → step s = exec i s ∧
          ∃ t, exec i s = .next t ∧ (t.fault = s.fault ∨ ∃ k a, k ≠ .none ∧ Raised s t k w a))) ∧
    (∀ t, step s = .next t → t.dt ≠ s.dt → ∃ x, s.fetchDecode = .instr (.ldDtVx x)) ∧
    (∀ t, step s = .next t → t.st ≠ s.st → ∃ x, s.fetchDecode = .instr (.ldStVx x))

/-- R81, whole: every instruction that is not a jump, call, return, skip or wait ends with `PC <- p + 2` unless it
raises, and from any `p` a fetch can use the sum does not wrap. -/
def Obligations.SequentialInstructionsAdvanceByTwo : Prop :=
  ∀ (i : Instr) (s : State), sequential i = true → s.halted = false →
    ∃ t, exec i s = .next t ∧ (t.halted = false → Advances s t 2)

/-- R186, R188 (D4, D6, D7). Faults are precise: a step that halts the core writes `FAULT` and nothing else; the
record holds `PC` and the word fetched, 0 when the fetch faulted. -/
def Obligations.AFaultingStepChangesOnlyTheRecord : Prop :=
  ∀ s t : State, s.halted = false → step s = .next t → t.halted = true →
    ∃ k a, k ≠ .none ∧ Raised s t k (if s.pc.toNat ≤ 0xFFE then s.wordAt s.pc.toNat else 0x0000#16) a

/-- R194 (derived). Only the seven instructions of the table (`2NNN`, `00EE`, `BNNN`, `DXYN` with `N > 0`, `FX33`, `FX55`,
`FX65`) raise when they execute, each its one fault. -/
def Obligations.OnlyTheSevenInstructionsRaise : Prop :=
  ∀ (i : Instr) (s t : State), s.halted = false → exec i s = .next t → t.halted = true → canRaise i t.fault.kind

/-- R187, R29(e) (D4). However many legal events short of `Reset` reach a halted core, only the keypad latch changes: no
step and no tick has an effect. -/
def Obligations.HaltedCoreOnlyTakesKeys : Prop :=
  ∀ (s : State) (es : List Event), s.halted = true → legalFrom false es = true → Event.reset ∉ es →
    s.afterAll es = s.setKeys (lastKeys s.keys es)

/-- The model's own choice of form: the faults of the core are next states (DEDUCED, log entry 3) and `exec` is total also
on a halted state (DESIGN CHOICE, log entry 10), so every step and every `exec` answers a next state. It rests on R80 ("a
rule either completes all its writes ... or raises a fault and writes nothing") and R186, which do not say it so. -/
def Obligations.EveryStepAnswersANextState : Prop :=
  (∀ s : State, ∃ t, step s = .next t) ∧ ∀ (i : Instr) (s : State), ∃ t, exec i s = .next t

/-! ## What an instruction may write -/

/-- R28 (derived), the access matrix: an instruction that does not raise leaves every piece of state outside its "w"
columns and `PC` as it was; one that raises is in the table of R194 and leaves all but `FAULT` as it was. -/
def Obligations.InstructionsWriteOnlyTheirColumns : Prop :=
  ∀ (i : Instr) (s t : State), exec i s = .next t →
    Frame s t (fun p => p = .pc ∨ writes i s p) ∨ ∃ k a, canRaise i k ∧ Raised s t k (encode i) a

/-- R19, R28. No instruction reads `ST`: two states that differ in `ST` alone step to states that differ in `ST` at
most, and stay equal in every other piece. -/
def Obligations.NoStepDependsOnTheSoundTimer : Prop :=
  ∀ (s t : State) (b : Byte), step s = .next t → ∃ u, step (s.setSt b) = .next u ∧ u = t.setSt u.st

/-- R17 (D9). A popped entry is unobservable: two states that agree but for entries at or above `SP` step to states
that agree but for entries at or above their `SP`. -/
def Obligations.NoStepDependsOnStaleStackEntries : Prop :=
  ∀ (s t : State) (st' : Vector Word16 16), (∀ j : Fin 16, j.val < s.sp.val → st'[j] = s.getStack j) → step s = .next t →
    ∃ u, step { s with stack := st' } = .next u ∧ u = { t with stack := u.stack } ∧
      ∀ j : Fin 16, j.val < t.sp.val → u.getStack j = t.getStack j

/-- R7, R115 (D21). The core's step is `Step(rnd)` with the free byte as its input, and only `CXNN` consumes the input: on any
other instruction all inputs give one result. -/
def Obligations.OnlyRandomConsumesTheStepInput : Prop :=
  ∀ s : State, step s = s.stepWith (Config.rnd s.rndCount) ∧
    ((∀ x nn, s.fetchDecode ≠ .instr (.rnd x nn)) → ∀ r : Byte, s.stepWith r = step s)

/-! ## Control transfer -/

/-- R82, whole: `PC <- NNN`, for every `NNN` and from every `PC`; no flag, no fault, no other state changes; and its
encoding. -/
def Obligations.JumpSetsPc : Prop :=
  ∀ (nnn : Addr12) (s : State), ∃ t, exec (.jp nnn) s = .next t ∧ t.pc.toNat = nnn.toNat ∧ Frame s t onlyPc ∧
    InRow (.jp nnn) 0x1000#16 0xF000#16 ∧ fieldNNN (encode (.jp nnn)) = nnn

/-- R86 (D11, D26, G6). `BNNN` jumps to `NNN + V[0]`, unreduced, when that is at most 0xFFF, and else raises
`OutOfBounds` with that address. -/
def Obligations.JumpWithOffset : Prop :=
  ∀ (nnn : Addr12) (s : State),
    (nnn.toNat + (s.getV 0).toNat ≤ 0xFFF →
      ∃ t, exec (.jpV0 nnn) s = .next t ∧ t.pc.toNat = nnn.toNat + (s.getV 0).toNat ∧ Frame s t onlyPc) ∧
    (0xFFF < nnn.toNat + (s.getV 0).toNat →
      ∃ t, exec (.jpV0 nnn) s = .next t ∧
        Raised s t .outOfBounds (encode (.jpV0 nnn)) (nnn.toNat + (s.getV 0).toNat))

/-- R83 (D8). A call with an entry free writes the address of the next instruction into the first free entry, counts
it, and jumps; no other entry changes. -/
def Obligations.CallPushesTheReturnAddress : Prop :=
  ∀ (nnn : Addr12) (s : State) (j : Fin 16), s.sp.val = j.val →
    ∃ t, exec (.call nnn) s = .next t ∧ t.getStack j = s.pc + 2#16 ∧ t.sp.val = s.sp.val + 1 ∧ t.pc.toNat = nnn.toNat ∧
      Frame s t (fun p => p = .pc ∨ p = .sp ∨ p = .stack j)

/-- R84 (D8, D9). A return with an entry valid loads the top entry into `PC` unchanged and uncounts it; the entry
keeps its value. -/
def Obligations.ReturnLoadsTheTopEntry : Prop :=
  ∀ (s : State) (j : Fin 16), s.sp.val = j.val + 1 →
    ∃ t, exec .ret s = .next t ∧ t.pc = s.getStack j ∧ t.sp.val = j.val ∧ Frame s t (fun p => p = .pc ∨ p = .sp)

/-- R182, R183, whole: a call raises `StackOverflow` exactly when 16 entries are valid, a return raises
`StackUnderflow` exactly when none is. -/
def Obligations.StackFaultsAtTheLimits : Prop :=
  ∀ (nnn : Addr12) (s : State), s.halted = false →
    (∃ t, exec (.call nnn) s = .next t ∧ (t.fault.kind = .stackOverflow ↔ s.sp.val = 16) ∧ (t.halted = true ↔ s.sp.val = 16)) ∧
    (∃ t, exec .ret s = .next t ∧ (t.fault.kind = .stackUnderflow ↔ s.sp.val = 0) ∧ (t.halted = true ↔ s.sp.val = 0))

/-- R85(a) (derived, D8). A call and then a return come back to the instruction after the call with the stack pointer as
it was, for every target and every depth below 16; only the entry the call wrote may differ. -/
def Obligations.CallThenReturnRoundTrip : Prop :=
  ∀ (nnn : Addr12) (s : State) (j : Fin 16), s.sp.val = j.val →
    ∃ t u, exec (.call nnn) s = .next t ∧ exec .ret t = .next u ∧ Advances s u 2 ∧ u.sp = s.sp ∧
      Frame s u (fun p => p = .pc ∨ p = .stack j)

/-- R85(b) (derived). `k` calls without a return raise the stack pointer by `k` while it stays within 16; a call at 16
raises `StackOverflow` and changes nothing else. -/
def Obligations.NestedCallsCountDepth : Prop :=
  ∀ (targets : List Addr12) (s : State), s.sp.val + targets.length ≤ 16 →
    ∃ t, execAll (targets.map Instr.call) s = .next t ∧ t.sp.val = s.sp.val + targets.length ∧
      (s.sp.val + targets.length = 16 → ∀ nnn : Addr12, ∃ u, exec (.call nnn) t = .next u ∧
        Raised t u .stackOverflow (encode (.call nnn)) 0)

/-- R87, R88, R89, R90, whole: each skip moves `PC` by 4 when its condition holds and by 2 when not, and changes nothing
else; `X = Y` always skips in `5XY0` and never in `9XY0`; and their encodings. -/
def Obligations.SkipsMoveByFourOrTwo : Prop :=
  ∀ (x y : Reg) (nn : Byte) (s : State),
    (∃ t, exec (.seImm x nn) s = .next t ∧ Advances s t (if s.getV x = nn then 4 else 2) ∧ Frame s t onlyPc) ∧
    (∃ t, exec (.sneImm x nn) s = .next t ∧ Advances s t (if s.getV x ≠ nn then 4 else 2) ∧ Frame s t onlyPc) ∧
    (∃ t, exec (.seReg x y) s = .next t ∧ Advances s t (if s.getV x = s.getV y then 4 else 2) ∧ Frame s t onlyPc) ∧
    (∃ t, exec (.sneReg x y) s = .next t ∧ Advances s t (if s.getV x ≠ s.getV y then 4 else 2) ∧ Frame s t onlyPc) ∧
    InRow (.seImm x nn) 0x3000#16 0xF000#16 ∧ InRow (.sneImm x nn) 0x4000#16 0xF000#16 ∧
    InRow (.seReg x y) 0x5000#16 0xF00F#16 ∧ InRow (.sneReg x y) 0x9000#16 0xF00F#16

/-! ## Registers, arithmetic, logic -/

/-- R101, R102, whole: `6XNN` loads `NN` and `8XY0` copies `V[Y]`, for every `X` and `Y`, with no flag and no fault; and
their encodings. -/
def Obligations.LoadAndCopyRegister : Prop :=
  ∀ (x y : Reg) (nn : Byte) (s : State),
    (∃ t, exec (.ldImm x nn) s = .next t ∧ t.getV x = nn ∧ Advances s t 2 ∧ Frame s t (onlyReg x)) ∧
    (∃ t, exec (.ldReg x y) s = .next t ∧ t.getV x = s.getV y ∧ Advances s t 2 ∧ Frame s t (onlyReg x)) ∧
    InRow (.ldImm x nn) 0x6000#16 0xF000#16 ∧ InRow (.ldReg x y) 0x8000#16 0xF00F#16

/-- R111 (D33, G2). `7XNN` adds modulo 256 and touches no other register, the flag included. -/
def Obligations.AddImmediateSetsNoFlag : Prop :=
  ∀ (x : Reg) (nn : Byte) (s : State), ∃ t, exec (.addImm x nn) s = .next t ∧
    (t.getV x).toNat = ((s.getV x).toNat + nn.toNat) % 256 ∧ Advances s t 2 ∧ Frame s t (onlyReg x)

/-- R103, R104, R105 (D17), R100. The bitwise instructions; under `Q_LOGIC_RESETS_VF` the flag is written 0 last, so it
ends 0 also when `X` is the flag; without it the flag changes only when `X` names it. -/
def Obligations.BitwiseLogicAndItsQuirk : Prop :=
  ∀ (x y : Reg) (s : State) (i : Instr) (r : Byte),
    (i = .orReg x y ∧ r = s.getV x ||| s.getV y) ∨ (i = .andReg x y ∧ r = s.getV x &&& s.getV y) ∨
      (i = .xorReg x y ∧ r = s.getV x ^^^ s.getV y) →
    ∃ t, exec i s = .next t ∧ Advances s t 2 ∧
      (s.quirks.logicResetsVf = false → t.getV x = r ∧ Frame s t (onlyReg x)) ∧
      (s.quirks.logicResetsVf = true → (x ≠ flagReg → t.getV x = r) ∧ t.getV flagReg = 0#8 ∧ Frame s t (onlyRegFlag x))

/-- R106, whole: the sum modulo 256 and the carry, both operands read before any write; with `X = 0xF` the flag stays
and the sum is lost; and its encoding. -/
def Obligations.AddRegisterSetsCarry : Prop :=
  ∀ (x y : Reg) (s : State), ∃ t, exec (.addReg x y) s = .next t ∧
    (x ≠ flagReg → (t.getV x).toNat = ((s.getV x).toNat + (s.getV y).toNat) % 256) ∧
    t.getV flagReg = (if (s.getV x).toNat + (s.getV y).toNat > 255 then 1#8 else 0#8) ∧
    Advances s t 2 ∧ Frame s t (onlyRegFlag x) ∧ InRow (.addReg x y) 0x8004#16 0xF00F#16

/-- R107, R109 (D33, G3), R100. Both subtractions wrap modulo 256 and set the flag to 1 exactly when there is no
borrow, equal operands included. -/
def Obligations.SubtractionsSetNotBorrow : Prop :=
  ∀ (x y : Reg) (s : State),
    (∃ t, exec (.subReg x y) s = .next t ∧
      (x ≠ flagReg → (t.getV x).toNat = ((s.getV x).toNat + 256 - (s.getV y).toNat) % 256) ∧
      t.getV flagReg = (if (s.getV x).toNat ≥ (s.getV y).toNat then 1#8 else 0#8) ∧
      Advances s t 2 ∧ Frame s t (onlyRegFlag x)) ∧
    (∃ t, exec (.subnReg x y) s = .next t ∧
      (x ≠ flagReg → (t.getV x).toNat = ((s.getV y).toNat + 256 - (s.getV x).toNat) % 256) ∧
      t.getV flagReg = (if (s.getV y).toNat ≥ (s.getV x).toNat then 1#8 else 0#8) ∧
      Advances s t 2 ∧ Frame s t (onlyRegFlag x))

/-- R108, R110 (D18, G4), R100. The shifts move one place, fill with 0, and put the bit shifted out into the flag; the
operand is `V[Y]` under `Q_SHIFT_USES_VY`, else `V[X]`. -/
def Obligations.ShiftsSetTheBitShiftedOut : Prop :=
  ∀ (x y : Reg) (s : State) (b : Byte), b = (if s.quirks.shiftUsesVy = true then s.getV y else s.getV x) →
    (∃ t, exec (.shr x y) s = .next t ∧ (x ≠ flagReg → (t.getV x).toNat = b.toNat / 2) ∧
      (t.getV flagReg).toNat = b.toNat % 2 ∧ Advances s t 2 ∧ Frame s t (onlyRegFlag x)) ∧
    (∃ t, exec (.shl x y) s = .next t ∧ (x ≠ flagReg → (t.getV x).toNat = b.toNat * 2 % 256) ∧
      (t.getV flagReg).toNat = b.toNat / 128 ∧ Advances s t 2 ∧ Frame s t (onlyRegFlag x))

/-- R115 (D21). `CXNN` stores the step's input under the mask, for every input; the core's own input is the next free
byte (log entry 2), of which nothing is assumed. -/
def Obligations.RandomByteUnderMask : Prop :=
  ∀ (x : Reg) (nn : Byte) (s : State),
    exec (.rnd x nn) s = .next (rndWith (Config.rnd s.rndCount) x nn s) ∧
    ∀ r : Byte, (rndWith r x nn s).getV x = r &&& nn ∧ Advances s (rndWith r x nn s) 2 ∧
      Frame s (rndWith r x nn s) (fun p => p = .pc ∨ p = .v x ∨ p = .rndCount)

/-! ## The index register and memory -/

/-- R120, whole: `I <- NNN` zero-extended, nothing else but `PC`; and its encoding. -/
def Obligations.LoadIndex : Prop :=
  ∀ (nnn : Addr12) (s : State), ∃ t, exec (.ldI nnn) s = .next t ∧ t.i.toNat = nnn.toNat ∧ Advances s t 2 ∧
    Frame s t onlyI ∧ InRow (.ldI nnn) 0xA000#16 0xF000#16

/-- R121, R122 (D22, D25, D33, G7, G8). `FX1E` adds modulo 65536 with no flag and no fault whatever the sum; `FX29` points `I` at the glyph of the
low nibble of `V[X]`, at most 0x04B. -/
def Obligations.AddToIndexAndGlyphAddress : Prop :=
  ∀ (x : Reg) (s : State),
    (∃ t, exec (.addI x) s = .next t ∧ t.i.toNat = (s.i.toNat + (s.getV x).toNat) % 65536 ∧ Advances s t 2 ∧
      Frame s t onlyI) ∧
    (∃ t, exec (.ldF x) s = .next t ∧ t.i.toNat = 5 * ((s.getV x).toNat % 16) ∧ t.i.toNat ≤ 0x04B ∧ Advances s t 2 ∧
      Frame s t onlyI)

/-- R123 (D33, G10). `FX33` stores the three decimal digits, hundreds first, at `I`, `I + 1`, `I + 2` and changes no
other byte. -/
def Obligations.StoreDecimalDigits : Prop :=
  ∀ (x : Reg) (s : State), s.effAddr 2 ≤ 0xFFF →
    ∃ t, exec (.ldB x) s = .next t ∧
      (t.readByte (s.effAddr 0)).toNat = (s.getV x).toNat / 100 ∧
      (t.readByte (s.effAddr 1)).toNat = (s.getV x).toNat / 10 % 10 ∧
      (t.readByte (s.effAddr 2)).toNat = (s.getV x).toNat % 10 ∧
      Advances s t 2 ∧
      Frame s t (fun p => p = .pc ∨ p = .mem (s.effAddr 0) ∨ p = .mem (s.effAddr 1) ∨ p = .mem (s.effAddr 2))

/-- R125 (D15, G14). `FX55` pairs `V[k]` with address `I + k` for `k` up to `X` and changes no other byte; `I` moves by
`X + 1`, without wrap, under `Q_LOADSTORE_INC_I` only. -/
def Obligations.StoreRegisterBlock : Prop :=
  ∀ (x : Reg) (s : State), s.effAddr x.val ≤ 0xFFF →
    ∃ t, exec (.storeRegs x) s = .next t ∧ (∀ k : Reg, k ≤ x → t.readByte (s.effAddr k.val) = s.getV k) ∧
      t.i.toNat = (if s.quirks.loadStoreIncI = true then s.i.toNat + x.val + 1 else s.i.toNat) ∧ Advances s t 2 ∧
      Frame s t (fun p => p = .pc ∨ p = .i ∨ ∃ k : Reg, k ≤ x ∧ p = .mem (s.effAddr k.val))

/-- R126 (D15, G14). `FX65` loads `V[k]` from `I + k` for `k` up to `X`; registers above `X`, memory and the rest stay. -/
def Obligations.LoadRegisterBlock : Prop :=
  ∀ (x : Reg) (s : State), s.effAddr x.val ≤ 0xFFF →
    ∃ t, exec (.loadRegs x) s = .next t ∧ (∀ k : Reg, k ≤ x → t.getV k = s.readByte (s.effAddr k.val)) ∧
      t.i.toNat = (if s.quirks.loadStoreIncI = true then s.i.toNat + x.val + 1 else s.i.toNat) ∧ Advances s t 2 ∧
      Frame s t (fun p => p = .pc ∨ p = .i ∨ ∃ k : Reg, k ≤ x ∧ p = .v k)

/-- R44, whole: every row of the table, with the address recorded, and no fault when the row's condition fails; plain
jumps and calls never fault for range; holding a large value in `I` (`FX1E`) or in `PC` (a skip past the end) is no
fault, using it is. -/
def Obligations.BoundsTableOfTheSpec : Prop :=
  ∀ (x y : Reg) (n : Nibble) (nnn : Addr12) (s : State), s.halted = false →
    (0xFFE < s.pc.toNat → ∃ t, step s = .next t ∧ t.fault.kind = .outOfBounds ∧
      t.fault.addr.toNat = if s.pc.toNat > 0xFFF then s.pc.toNat else 0x1000) ∧
    (s.pc.toNat ≤ 0xFFE → (∃ i, s.fetchDecode = .instr i) ∨ ∃ w, s.fetchDecode = .illegal w) ∧
    (nnn.toNat + (s.getV 0).toNat > 0xFFF → RaisesAt (.jpV0 nnn) s (nnn.toNat + (s.getV 0).toNat)) ∧
    (nnn.toNat + (s.getV 0).toNat ≤ 0xFFF → RunsClear (.jpV0 nnn) s) ∧
    (n.toNat > 0 ∧ s.i.toNat + n.toNat - 1 > 0xFFF → RaisesAt (.drw x y n) s (max s.i.toNat 0x1000)) ∧
    (¬ (n.toNat > 0 ∧ s.i.toNat + n.toNat - 1 > 0xFFF) → RunsClear (.drw x y n) s) ∧
    (s.i.toNat + 2 > 0xFFF → RaisesAt (.ldB x) s (max s.i.toNat 0x1000)) ∧
    (s.i.toNat + 2 ≤ 0xFFF → RunsClear (.ldB x) s) ∧
    (s.i.toNat + x.val > 0xFFF →
      RaisesAt (.storeRegs x) s (max s.i.toNat 0x1000) ∧ RaisesAt (.loadRegs x) s (max s.i.toNat 0x1000)) ∧
    (s.i.toNat + x.val ≤ 0xFFF → RunsClear (.storeRegs x) s ∧ RunsClear (.loadRegs x) s) ∧
    RunsClear (.jp nnn) s ∧ (∀ t, exec (.call nnn) s = .next t → t.fault.kind ≠ .outOfBounds) ∧ RunsClear (.addI x) s ∧
    RunsClear (.seReg x x) s

/-- R53 (derived). Fetch is coherent with stores: after `FX55` with `X` at least 1, a step from the address stored to
runs what `V[0]` and `V[1]` spell. -/
def Obligations.FetchSeesTheStore : Prop :=
  ∀ (x : Reg) (s : State) (i : Instr), 1 ≤ x.val → s.effAddr x.val ≤ 0xFFF → s.halted = false →
    decodeWord (wordOfBytes (s.getV 0) (s.getV 1)) = .ok i →
    ∃ t, exec (.storeRegs x) s = .next t ∧ step (t.setPc s.i) = exec i (t.setPc s.i)

/-! ## The display -/

/-- R140, whole: every pixel off, the flag and all other state but `PC` as before; and its encoding. -/
def Obligations.ClearTurnsEveryPixelOff : Prop :=
  ∀ s : State, ∃ t, exec .cls s = .next t ∧ (∀ p, t.pixel p = false) ∧ Advances s t 2 ∧
    Frame s t (fun p => p = .pc ∨ ∃ q, p = .fb q) ∧ InRow .cls 0x00E0#16 0xFFFF#16

/-- R143, R144 (D16, D19, D24, D31). A draw whose bytes are in range flips exactly the pixels the sprite covers,
wrapped or clipped by `Q_DRAW_WRAP`; only the flag, the pixels and `PC` change. -/
def Obligations.DrawFlipsTheCoveredPixels : Prop :=
  ∀ (x y : Reg) (n : Nibble) (s : State), n.toNat = 0 ∨ s.i.toNat + n.toNat ≤ 0x1000 →
    ∃ t, exec (.drw x y n) s = .next t ∧ (∀ p, s.Covers x y n p → t.pixel p = !s.pixel p) ∧
      (∀ p, ¬ s.Covers x y n p → t.pixel p = s.pixel p) ∧ Advances s t 2 ∧
      Frame s t (fun p => p = .pc ∨ p = .v flagReg ∨ ∃ q, p = .fb q)

/-- R143, R11 (D16, D19). The flag after a draw is 1 when a covered pixel was on before it, else 0, also when `X` or
`Y` names the flag. -/
def Obligations.DrawReportsCollision : Prop :=
  ∀ (x y : Reg) (n : Nibble) (s : State), n.toNat = 0 ∨ s.i.toNat + n.toNat ≤ 0x1000 →
    ∃ t, exec (.drw x y n) s = .next t ∧ ((∃ p, s.Covers x y n p ∧ s.pixel p = true) → t.getV flagReg = 1#8) ∧
      ((∀ p, s.Covers x y n p → s.pixel p = false) → t.getV flagReg = 0#8)

/-- R144 (D16). No pixel is visited twice by one draw, in either edge mode. -/
def Obligations.DrawVisitsNoPixelTwice : Prop :=
  ∀ (x y : Reg) (n : Nibble) (s : State), (s.spritePixels x y n).Nodup

/-- R146 (derived). Drawing the same sprite twice restores the framebuffer, in both edge modes, and the flag is then 1
exactly when the first draw turned a pixel on. -/
def Obligations.DrawTwiceRestoresTheScreen : Prop :=
  ∀ (x y : Reg) (n : Nibble) (s : State), x ≠ flagReg → y ≠ flagReg → n.toNat = 0 ∨ s.i.toNat + n.toNat ≤ 0x1000 →
    ∃ t u, exec (.drw x y n) s = .next t ∧ exec (.drw x y n) t = .next u ∧ u.fb = s.fb ∧
      (u.getV flagReg = 1#8 ↔ ∃ p, s.pixel p = false ∧ t.pixel p = true)

/-- R145 (D24). `DXY0` reads and draws nothing and cannot fault, whatever `I` holds: it writes 0 to the flag. -/
def Obligations.DrawOfNoRows : Prop :=
  ∀ (x y : Reg) (s : State), ∃ t, exec (.drw x y 0x0#4) s = .next t ∧ t.getV flagReg = 0#8 ∧ Advances s t 2 ∧
    Frame s t (fun p => p = .pc ∨ p = .v flagReg)

/-! ## The keypad and the timers -/

/-- R162, whole: the key both key skips test is `KEYS[V[X] & 0x0F]`, so the high nibble of `V[X]` is ignored, and no value
of `V[X]` faults. That `EX9E` skips when the key is down and `EXA1` when it is up is D33, G12. -/
def Obligations.KeyIndexIsTheLowNibble : Prop :=
  ∀ (x : Reg) (b : Byte) (s : State),
    (∃ t u, exec (.skp x) (s.setV x b) = .next t ∧ exec (.skp x) (s.setV x (b &&& 0x0F#8)) = .next u ∧ t.pc = u.pc ∧
      Advances s t (if s.keys.getLsbD (b &&& 0x0F#8).toNat = true then 4 else 2) ∧ t.fault = s.fault) ∧
    (∃ t u, exec (.sknp x) (s.setV x b) = .next t ∧ exec (.sknp x) (s.setV x (b &&& 0x0F#8)) = .next u ∧ t.pc = u.pc ∧
      Advances s t (if s.keys.getLsbD (b &&& 0x0F#8).toNat = true then 2 else 4) ∧ t.fault = s.fault)

/-- R160, R161 (D33, G12), R163. The key skips test the latch as it stands, move `PC` by 4 or 2, and consume nothing. -/
def Obligations.KeySkipsTestTheLatch : Prop :=
  ∀ (x : Reg) (s : State) (k : Key), k.val = (s.getV x).toNat % 16 →
    (∃ t, exec (.skp x) s = .next t ∧ Advances s t (if s.keys.getLsbD k.val = true then 4 else 2) ∧ Frame s t onlyPc) ∧
    (∃ t, exec (.sknp x) s = .next t ∧ Advances s t (if s.keys.getLsbD k.val = true then 2 else 4) ∧ Frame s t onlyPc)

/-- R164 (D20). With no key held a wait changes nothing at all; with a key held it stores the lowest one and goes on. -/
def Obligations.WaitForKey : Prop :=
  ∀ (x : Reg) (s : State),
    ((∀ k : Key, s.keys.getLsbD k.val = false) → exec (.ldVxK x) s = .next s) ∧
    (∀ k : Key, s.keys.getLsbD k.val = true → (∀ j : Key, j < k → s.keys.getLsbD j.val = false) →
      ∃ t, exec (.ldVxK x) s = .next t ∧ (t.getV x).toNat = k.val ∧ Advances s t 2 ∧ Frame s t (onlyReg x))

/-- R165, R166, whole: `FX07` reads the delay timer and leaves it, `FX15` replaces it by any byte; and their
encodings. -/
def Obligations.DelayTimerReadAndSet : Prop :=
  ∀ (x : Reg) (s : State),
    (∃ t, exec (.ldVxDt x) s = .next t ∧ t.getV x = s.dt ∧ Advances s t 2 ∧ Frame s t (onlyReg x)) ∧
    (∃ t, exec (.ldDtVx x) s = .next t ∧ t.dt = s.getV x ∧ (s.halted = false → t.tick.dt.toNat = (s.getV x).toNat - 1) ∧
      Advances s t 2 ∧ Frame s t (fun p => p = .pc ∨ p = .dt)) ∧
    InRow (.ldVxDt x) 0xF007#16 0xF0FF#16 ∧ InRow (.ldDtVx x) 0xF015#16 0xF0FF#16

/-- R167 (D33, G12). `FX18` replaces the sound timer, and the level follows it from the end of the step. -/
def Obligations.SoundTimerSet : Prop :=
  ∀ (x : Reg) (s : State), ∃ t, exec (.ldStVx x) s = .next t ∧ t.st = s.getV x ∧
    (t.soundOn = true ↔ s.getV x ≠ 0#8) ∧ Advances s t 2 ∧ Frame s t (fun p => p = .pc ∨ p = .st)

/-- R195, whole: a tick takes one from each timer that is not 0, leaves a 0 at 0, does nothing while halted, and
touches nothing else; both timers are 0 at reset. -/
def Obligations.TickCountsBothTimersDown : Prop :=
  (∀ s : State,
    (s.halted = true → s.tick = s) ∧
    (s.halted = false → (s.tick.dt.toNat = s.dt.toNat - 1) ∧ (s.tick.st.toNat = s.st.toNat - 1)) ∧
    Frame s s.tick (fun p => p = .dt ∨ p = .st)) ∧
  State.reset.dt = 0#8 ∧ State.reset.st = 0#8

/-- R197 (derived). After `n` ticks a timer that started at `v` holds `max(0, v - n)`. -/
def Obligations.TimersAreMonotone : Prop :=
  ∀ (n : Nat) (s : State), s.halted = false →
    (s.afterAll (List.replicate n .tick)).dt.toNat = s.dt.toNat - n ∧
      (s.afterAll (List.replicate n .tick)).st.toNat = s.st.toNat - n

/-- R198, whole for the core: the level is on exactly when `ST` is not 0, and it changes only at the end of an `FX18`
step, to whether `V[X]` is not 0, at a tick that takes `ST` from 1 to 0, and at `Reset`. -/
def Obligations.SoundLevelChangesOnlyAtThree : Prop :=
  ∀ (s : State) (e : Event), (s.soundOn = true ↔ s.st ≠ 0#8) ∧
    ((s.after e).soundOn ≠ s.soundOn →
      (∃ r x, e = .step r ∧ s.fetchDecode = .instr (.ldStVx x) ∧ (s.after e).soundOn = decide (s.getV x ≠ 0#8)) ∨
      (e = .tick ∧ s.st = 1#8 ∧ (s.after e).st = 0#8) ∨ e = .reset)

/-! ## Reset, boot, and the invariant -/

/-- R25, R210 (D22, D23; log entry 9). Every piece of state right after `Reset`, the font of R27 byte by byte and
zero in the rest of memory. -/
def Obligations.ResetValuesOfTheSpec : Prop :=
  (∀ x, State.reset.getV x = 0#8) ∧ State.reset.i = 0#16 ∧ State.reset.pc = 0x0200#16 ∧ State.reset.sp = 0 ∧
  (∀ j, State.reset.getStack j = 0#16) ∧ State.reset.dt = 0#8 ∧ State.reset.st = 0#8 ∧ State.reset.keys = 0#16 ∧
  (∀ p, State.reset.pixel p = false) ∧
  State.reset.fault.kind = .none ∧ State.reset.fault.pc = 0#16 ∧ State.reset.fault.word = 0#16 ∧ State.reset.fault.addr = 0#17 ∧
  (∀ a, 0x050 ≤ a → State.reset.readByte a = 0#8) ∧
  (List.range 80).map State.reset.readByte =
    [0xF0#8, 0x90#8, 0x90#8, 0x90#8, 0xF0#8, 0x20#8, 0x60#8, 0x20#8, 0x20#8, 0x70#8,
     0xF0#8, 0x10#8, 0xF0#8, 0x80#8, 0xF0#8, 0xF0#8, 0x10#8, 0xF0#8, 0x10#8, 0xF0#8] ++
    [0x90#8, 0x90#8, 0xF0#8, 0x10#8, 0x10#8, 0xF0#8, 0x80#8, 0xF0#8, 0x10#8, 0xF0#8,
     0xF0#8, 0x80#8, 0xF0#8, 0x90#8, 0xF0#8, 0xF0#8, 0x10#8, 0x20#8, 0x40#8, 0x40#8] ++
    [0xF0#8, 0x90#8, 0xF0#8, 0x90#8, 0xF0#8, 0xF0#8, 0x90#8, 0xF0#8, 0x10#8, 0xF0#8,
     0xF0#8, 0x90#8, 0xF0#8, 0x90#8, 0x90#8, 0xE0#8, 0x90#8, 0xE0#8, 0x90#8, 0xE0#8] ++
    [0xF0#8, 0x80#8, 0x80#8, 0x80#8, 0xF0#8, 0xE0#8, 0x90#8, 0x90#8, 0x90#8, 0xE0#8,
     0xF0#8, 0x80#8, 0xF0#8, 0x80#8, 0xF0#8, 0xF0#8, 0x80#8, 0xF0#8, 0x80#8, 0x80#8]

/-- R212, R187 (D23). `Reset` from any state, halted or not, gives the reset state and leaves the parameters; the count
of free bytes is the model's own (log entry 12). -/
def Obligations.ResetFromAnyState : Prop :=
  ∀ s : State, s.event .reset = .next s.resetEvent ∧ s.resetEvent.halted = false ∧
    Frame State.reset s.resetEvent (fun p => p = .quirks ∨ p = .rndCount) ∧ s.resetEvent.quirks = s.quirks

/-- R213, R185, R31 (D30). An image of at most 3584 bytes lands byte by byte from 0x200 and nothing else changes; a larger
one is refused, nothing changes and the core is not halted by it. -/
def Obligations.LoadImagePlacesTheBytesOrRefuses : Prop :=
  ∀ (s : State) (bytes : List Byte),
    (bytes.length ≤ 3584 → ∃ t, s.event (.loadImage bytes) = .next t ∧
      (∀ (k : Nat) (h : k < bytes.length), t.readByte (0x200 + k) = bytes[k]) ∧
      Frame s t (fun p => ∃ k, k < bytes.length ∧ p = .mem (0x200 + k))) ∧
    (3584 < bytes.length → s.event (.loadImage bytes) = .refused .imageTooLarge ∧ s.after (.loadImage bytes) = s)

/-- R34 (D3). With both strobes given and no reset or load, a clock edge is `Step`, then `Tick`. -/
def Obligations.BothStrobesAreStepThenTick : Prop :=
  ∀ (s : State) (p : PortsIn), p.reset = false → p.ldWe = false → p.step = true → p.tick = true →
    s.clockEdge p = (s.after (.step p.rnd)).after .tick

/-- R203(a) (derived). The halt idiom is a fixed point: a running core at a jump to itself is unchanged by any number
of steps. -/
def Obligations.JumpToItselfIsAFixedPoint : Prop :=
  ∀ (s : State) (nnn : Addr12) (n : Nat), s.halted = false → nnn.toNat ≤ 0xFFE → s.pc.toNat = nnn.toNat →
    s.wordAt s.pc.toNat = encode (.jp nnn) → Host.Core.run Sys2Proof.core n s = .next s

/-- R29(c), R29(d) (derived). The invariant holds at reset. Its clause that memory is in canonical form is the model's own
(DEDUCED, log entry 8). -/
def Obligations.ResetMeetsTheInvariant : Prop := State.reset.Inv

/-- R29(c), R29(d) (derived), R15. Every step keeps the invariant: `PC` at most 0x1002, valid return addresses at most
0x1000, and the memory in canonical form, which is the model's own clause (DEDUCED, log entry 8). -/
def Obligations.EveryStepKeepsTheInvariant : Prop :=
  ∀ s t : State, s.Inv → step s = .next t → t.Inv

/-- R29, R30, R196 (derived, D1, D29). Every state a legal sequence of events reaches meets the invariant, whatever
the host's order, keys, image and random bytes. The clause of the invariant that memory is in canonical form is the
model's own (DEDUCED, log entry 8). -/
def Obligations.EveryReachableStateMeetsTheInvariant : Prop :=
  ∀ (s : State) (es : List Event), legalRun es = true → (s.afterAll es).Inv
end

