-- ==== Sys2Proof/Laws/Decode.lean ====
section
/-! SUPPORT. The fields of an encoded word, and the two bytes of a word. -/

namespace Sys2Proof

@[simp] theorem regOf_regBits (r : Reg) : regOf (regBits r) = r := by
  apply Fin.ext
  simp [regOf, regBits]

@[simp] theorem regBits_regOf (b : Nibble) : regBits (regOf b) = b := by
  simp [regOf, regBits]

/-! ## The fields of each format (R61, R62) -/

@[simp] theorem fieldOp_encNNN (op : Nibble) (nnn : Addr12) : fieldOp (encNNN op nnn) = op := by
  ext i h
  simp [fieldOp, encNNN]
  grind

@[simp] theorem fieldNNN_encNNN (op : Nibble) (nnn : Addr12) : fieldNNN (encNNN op nnn) = nnn := by
  ext i h
  simp [fieldNNN, encNNN]
  grind

@[simp] theorem fieldOp_encXNN (op : Nibble) (x : Reg) (nn : Byte) : fieldOp (encXNN op x nn) = op :=
  fieldOp_encNNN ..

@[simp] theorem fieldOp_encXYN (op : Nibble) (x y : Reg) (n : Nibble) : fieldOp (encXYN op x y n) = op :=
  fieldOp_encNNN ..

@[simp] theorem regX_encXNN (op : Nibble) (x : Reg) (nn : Byte) : regX (encXNN op x nn) = x := by
  have : fieldX (encXNN op x nn) = regBits x := by
    ext i h
    simp [fieldX, encXNN, encNNN]
    grind
  simp [regX, this]

@[simp] theorem fieldNN_encXNN (op : Nibble) (x : Reg) (nn : Byte) : fieldNN (encXNN op x nn) = nn := by
  ext i h
  simp [fieldNN, encXNN, encNNN]
  grind

@[simp] theorem regX_encXYN (op : Nibble) (x y : Reg) (n : Nibble) : regX (encXYN op x y n) = x := regX_encXNN ..

@[simp] theorem regY_encXYN (op : Nibble) (x y : Reg) (n : Nibble) : regY (encXYN op x y n) = y := by
  have : fieldY (encXYN op x y n) = regBits y := by
    ext i h
    simp [fieldY, encXYN, encXNN, encNNN]
    grind
  simp [regY, this]

@[simp] theorem fieldN_encXYN (op : Nibble) (x y : Reg) (n : Nibble) : fieldN (encXYN op x y n) = n := by
  ext i h
  simp [fieldN, encXYN, encXNN, encNNN]
  grind

/-! ## A word from its fields -/

theorem encNNN_fields (w : Word16) : encNNN (fieldOp w) (fieldNNN w) = w := by
  ext i h
  simp [fieldOp, fieldNNN, encNNN]
  grind

theorem encXNN_fields (w : Word16) : encXNN (fieldOp w) (regX w) (fieldNN w) = w := by
  ext i h
  simp [fieldOp, regX, fieldX, fieldNN, encXNN, encNNN]
  grind

theorem encXYN_fields (w : Word16) : encXYN (fieldOp w) (regX w) (regY w) (fieldN w) = w := by
  ext i h
  simp [fieldOp, regX, fieldX, regY, fieldY, fieldN, encXYN, encXNN, encNNN]
  grind

/-! ## Masks of the table of R63 -/

theorem encNNN_and (op m : Nibble) (nnn k : Addr12) : encNNN op nnn &&& encNNN m k = encNNN (op &&& m) (nnn &&& k) := by
  exact BitVec.and_append

/-! ## Bytes of a word (R42) -/

@[simp] theorem wordOfBytes_high_low (w : Word16) : wordOfBytes (highByte w) (lowByte w) = w := by
  ext i h
  simp [wordOfBytes, highByte, lowByte]
  grind

@[simp] theorem highByte_wordOfBytes (hi lo : Byte) : highByte (wordOfBytes hi lo) = hi := by
  ext i h
  simp [wordOfBytes, highByte]
  grind

@[simp] theorem lowByte_wordOfBytes (hi lo : Byte) : lowByte (wordOfBytes hi lo) = lo := by
  ext i h
  simp [wordOfBytes, lowByte]
  grind

/-- Decoding the two bytes of a word, whatever follows them, is decoding the word (R60). -/
theorem decode_word (w : Word16) (rest : List Byte) :
    decode (highByte w :: lowByte w :: rest) =
      match decodeWord w with
      | .ok i => .ok (i, rest)
      | .error e => .error e := by
  cases h : decodeWord w <;> simp [decode, h]

end Sys2Proof
end

