-- ==== Sys2Proof/Laws/Memory.lean ====
section
/-! SUPPORT. The laws of memory: a read after a write, and that every operation keeps the canonical form. -/

namespace Sys2Proof.Machine

namespace Memory

@[simp] theorem read_nil (a : Nat) : read [] a = unlistedByte a := rfl

theorem read_cons (c : Host.Cell) (m : Memory) (a : Nat) : read (c :: m) a = if c.1 = a then c.2 else read m a := rfl

/-- After an erase the address reads as unlisted. -/
theorem read_erase_same (m : Memory) (a : Nat) : read (erase m a) a = unlistedByte a := by
  induction m with
  | nil => rfl
  | cons c m ih => by_cases h : c.1 = a <;> simp_all [erase, read_cons]

/-- An erase leaves every other address alone. -/
theorem read_erase_other (m : Memory) {a a' : Nat} (h : a' ≠ a) : read (erase m a) a' = read m a' := by
  induction m with
  | nil => rfl
  | cons c m ih =>
    by_cases hc : c.1 = a
    · have h' : a ≠ a' := fun e => h e.symm
      simpa [erase, read_cons, hc, h'] using ih
    · by_cases hc' : c.1 = a' <;> simp_all [erase, read_cons]

/-- A placed cell is read back, and no other address changes, in a list that had no cell of that address. -/
theorem read_place (m : Memory) (a a' : Nat) (b : Byte) (h : ∀ c ∈ m, c.1 ≠ a) :
    read (place a b m) a' = if a = a' then b else read m a' := by
  induction m with
  | nil => simp [place, read_cons]
  | cons c m ih =>
    have hc : c.1 ≠ a := h c (by simp)
    have ih' := ih fun d hd => h d (by simp [hd])
    by_cases hl : a < c.1
    · simp [place, hl, read_cons]
    · by_cases hca : c.1 = a'
      · have hl' : ¬ a < a' := hca ▸ hl
        have hne : a ≠ a' := fun e => hc (hca.trans e.symm)
        simp [place, hl', read_cons, hca, hne]
      · simp [place, hl, read_cons, hca, ih']

theorem erase_free (m : Memory) (a : Nat) : ∀ c ∈ erase m a, c.1 ≠ a := by
  intro c hc
  simpa [erase] using (List.mem_filter.mp hc).2

/-- THE LAW of a write: the address reads as written, every other as before (R45). -/
@[simp] theorem read_write (m : Memory) (a a' : Nat) (b : Byte) :
    read (write m a b) a' = if a' = a then b else read m a' := by
  unfold write
  by_cases h : a' = a
  · subst h
    split
    · next hb => simp [read_erase_same, hb]
    · simp [read_place _ _ _ _ (erase_free m a')]
  · have h' : a ≠ a' := fun e => h e.symm
    split
    · simp [read_erase_other m h]
    · simp [read_place _ _ _ _ (erase_free m a), h', read_erase_other m h]

/-- THE LAW of a block write: the bytes of the block in order, every address outside it as before (R45). -/
theorem read_writeList (bs : List Byte) (m : Memory) (a a' : Nat) :
    read (writeList m a bs) a' = if a ≤ a' then (bs[a' - a]?).getD (read m a') else read m a' := by
  induction bs generalizing m a with
  | nil => simp [writeList]
  | cons b bs ih =>
    rw [writeList, ih]
    by_cases h1 : a + 1 ≤ a'
    · obtain ⟨d, rfl⟩ := Nat.exists_eq_add_of_le h1
      have e1 : a + 1 + d - (a + 1) = d := by omega
      have e2 : a + 1 + d - a = d + 1 := by omega
      have e3 : a + 1 + d ≠ a := by omega
      have e4 : a ≤ a + 1 + d := by omega
      simp [e1, e2, e3, e4]
    · by_cases h2 : a' = a
      · simp [h2]
      · have h3 : ¬ a ≤ a' := by omega
        simp [h1, h2, h3]

/-! ## The canonical form -/

theorem risingFrom_cons (lo : Nat) (c : Host.Cell) (m : Memory) :
    risingFrom lo (c :: m) = true ↔
      lo ≤ c.1 ∧ c.1 ≤ Config.addrMax ∧ c.2 ≠ unlistedByte c.1 ∧ risingFrom (c.1 + 1) m = true := by
  simp [risingFrom, and_assoc]

theorem risingFrom_mono {lo lo' : Nat} (h : lo ≤ lo') (m : Memory) (hm : risingFrom lo' m = true) :
    risingFrom lo m = true := by
  cases m with
  | nil => rfl
  | cons c m => rw [risingFrom_cons] at *; exact ⟨by omega, hm.2⟩

theorem risingFrom_erase (m : Memory) (a lo : Nat) (hm : risingFrom lo m = true) : risingFrom lo (erase m a) = true := by
  induction m generalizing lo with
  | nil => rfl
  | cons c m ih =>
    rw [risingFrom_cons] at hm
    by_cases hc : c.1 = a
    · have := risingFrom_mono (by omega : lo ≤ c.1 + 1) _ (ih _ hm.2.2.2)
      simpa [erase, hc] using this
    · have : erase (c :: m) a = c :: erase m a := by simp [erase, hc]
      rw [this, risingFrom_cons]
      exact ⟨hm.1, hm.2.1, hm.2.2.1, ih _ hm.2.2.2⟩

theorem risingFrom_place (m : Memory) (a lo : Nat) (b : Byte) (ha : a ≤ Config.addrMax) (hlo : lo ≤ a)
    (hb : b ≠ unlistedByte a) (hfree : ∀ c ∈ m, c.1 ≠ a) (hm : risingFrom lo m = true) :
    risingFrom lo (place a b m) = true := by
  induction m generalizing lo with
  | nil => simp [place, risingFrom, ha, hlo, hb]
  | cons c m ih =>
    rw [risingFrom_cons] at hm
    have hc : c.1 ≠ a := hfree c (by simp)
    by_cases hl : a < c.1
    · simp only [place, hl, if_true]
      rw [risingFrom_cons, risingFrom_cons]
      exact ⟨hlo, ha, hb, by omega, hm.2⟩
    · simp only [place, hl, if_false]
      rw [risingFrom_cons]
      exact ⟨hm.1, hm.2.1, hm.2.2.1, ih _ (by omega) (fun d hd => hfree d (by simp [hd])) hm.2.2.2⟩

/-- A write inside the address space keeps the canonical form. -/
theorem wf_write (m : Memory) (a : Nat) (b : Byte) (hm : wf m = true) (ha : a ≤ Config.addrMax) :
    wf (write m a b) = true := by
  unfold write
  split
  · exact risingFrom_erase _ _ _ hm
  · next hb => exact risingFrom_place _ _ _ _ ha (Nat.zero_le _) hb (erase_free m a) (risingFrom_erase _ _ _ hm)

/-- A block write inside the address space keeps the canonical form. -/
theorem wf_writeList (bs : List Byte) (m : Memory) (a : Nat) (hm : wf m = true)
    (ha : a + bs.length ≤ Config.addrMax + 1) : wf (writeList m a bs) = true := by
  induction bs generalizing m a with
  | nil => exact hm
  | cons b bs ih =>
    simp only [List.length_cons] at ha
    exact ih _ _ (wf_write m a b hm (by omega)) (by omega)

/-- Reset memory is in canonical form. -/
theorem wf_reset : wf State.reset.mem = true := rfl

end Memory

end Sys2Proof.Machine
end

