-- ==== Sys2Proof/Laws/State.lean ====
section
/-! SUPPORT. What each update of the state does to each field and to each accessor, true by rfl, so that no proof
unfolds a record update. -/

namespace Sys2Proof.Machine

variable (s : State)

/-! ### `setV` -/

@[simp] theorem State.setV_v (x : Reg) (b : Byte) : (s.setV x b).v = s.v.set x b := rfl
@[simp] theorem State.setV_i (x : Reg) (b : Byte) : (s.setV x b).i = s.i := rfl
@[simp] theorem State.setV_pc (x : Reg) (b : Byte) : (s.setV x b).pc = s.pc := rfl
@[simp] theorem State.setV_sp (x : Reg) (b : Byte) : (s.setV x b).sp = s.sp := rfl
@[simp] theorem State.setV_stack (x : Reg) (b : Byte) : (s.setV x b).stack = s.stack := rfl
@[simp] theorem State.setV_dt (x : Reg) (b : Byte) : (s.setV x b).dt = s.dt := rfl
@[simp] theorem State.setV_st (x : Reg) (b : Byte) : (s.setV x b).st = s.st := rfl
@[simp] theorem State.setV_keys (x : Reg) (b : Byte) : (s.setV x b).keys = s.keys := rfl
@[simp] theorem State.setV_fb (x : Reg) (b : Byte) : (s.setV x b).fb = s.fb := rfl
@[simp] theorem State.setV_mem (x : Reg) (b : Byte) : (s.setV x b).mem = s.mem := rfl
@[simp] theorem State.setV_fault (x : Reg) (b : Byte) : (s.setV x b).fault = s.fault := rfl
@[simp] theorem State.setV_quirks (x : Reg) (b : Byte) : (s.setV x b).quirks = s.quirks := rfl
@[simp] theorem State.setV_rndCount (x : Reg) (b : Byte) : (s.setV x b).rndCount = s.rndCount := rfl
@[simp] theorem State.setV_getStack (x : Reg) (b : Byte) (j : Fin 16) : (s.setV x b).getStack j = s.getStack j := rfl
@[simp] theorem State.setV_pixel (x : Reg) (b : Byte) (p : Pixel) : (s.setV x b).pixel p = s.pixel p := rfl
@[simp] theorem State.setV_readByte (x : Reg) (b : Byte) (a : Nat) : (s.setV x b).readByte a = s.readByte a := rfl
@[simp] theorem State.setV_halted (x : Reg) (b : Byte) : (s.setV x b).halted = s.halted := rfl

/-! ### `setAllV` -/

@[simp] theorem State.setAllV_v (vs : Vector Byte 16) : (s.setAllV vs).v = vs := rfl
@[simp] theorem State.setAllV_i (vs : Vector Byte 16) : (s.setAllV vs).i = s.i := rfl
@[simp] theorem State.setAllV_pc (vs : Vector Byte 16) : (s.setAllV vs).pc = s.pc := rfl
@[simp] theorem State.setAllV_sp (vs : Vector Byte 16) : (s.setAllV vs).sp = s.sp := rfl
@[simp] theorem State.setAllV_stack (vs : Vector Byte 16) : (s.setAllV vs).stack = s.stack := rfl
@[simp] theorem State.setAllV_dt (vs : Vector Byte 16) : (s.setAllV vs).dt = s.dt := rfl
@[simp] theorem State.setAllV_st (vs : Vector Byte 16) : (s.setAllV vs).st = s.st := rfl
@[simp] theorem State.setAllV_keys (vs : Vector Byte 16) : (s.setAllV vs).keys = s.keys := rfl
@[simp] theorem State.setAllV_fb (vs : Vector Byte 16) : (s.setAllV vs).fb = s.fb := rfl
@[simp] theorem State.setAllV_mem (vs : Vector Byte 16) : (s.setAllV vs).mem = s.mem := rfl
@[simp] theorem State.setAllV_fault (vs : Vector Byte 16) : (s.setAllV vs).fault = s.fault := rfl
@[simp] theorem State.setAllV_quirks (vs : Vector Byte 16) : (s.setAllV vs).quirks = s.quirks := rfl
@[simp] theorem State.setAllV_rndCount (vs : Vector Byte 16) : (s.setAllV vs).rndCount = s.rndCount := rfl
@[simp] theorem State.setAllV_getStack (vs : Vector Byte 16) (j : Fin 16) : (s.setAllV vs).getStack j = s.getStack j := rfl
@[simp] theorem State.setAllV_pixel (vs : Vector Byte 16) (p : Pixel) : (s.setAllV vs).pixel p = s.pixel p := rfl
@[simp] theorem State.setAllV_readByte (vs : Vector Byte 16) (a : Nat) : (s.setAllV vs).readByte a = s.readByte a := rfl
@[simp] theorem State.setAllV_halted (vs : Vector Byte 16) : (s.setAllV vs).halted = s.halted := rfl

/-! ### `setI` -/

@[simp] theorem State.setI_v (w : Word16) : (s.setI w).v = s.v := rfl
@[simp] theorem State.setI_i (w : Word16) : (s.setI w).i = w := rfl
@[simp] theorem State.setI_pc (w : Word16) : (s.setI w).pc = s.pc := rfl
@[simp] theorem State.setI_sp (w : Word16) : (s.setI w).sp = s.sp := rfl
@[simp] theorem State.setI_stack (w : Word16) : (s.setI w).stack = s.stack := rfl
@[simp] theorem State.setI_dt (w : Word16) : (s.setI w).dt = s.dt := rfl
@[simp] theorem State.setI_st (w : Word16) : (s.setI w).st = s.st := rfl
@[simp] theorem State.setI_keys (w : Word16) : (s.setI w).keys = s.keys := rfl
@[simp] theorem State.setI_fb (w : Word16) : (s.setI w).fb = s.fb := rfl
@[simp] theorem State.setI_mem (w : Word16) : (s.setI w).mem = s.mem := rfl
@[simp] theorem State.setI_fault (w : Word16) : (s.setI w).fault = s.fault := rfl
@[simp] theorem State.setI_quirks (w : Word16) : (s.setI w).quirks = s.quirks := rfl
@[simp] theorem State.setI_rndCount (w : Word16) : (s.setI w).rndCount = s.rndCount := rfl
@[simp] theorem State.setI_getV (w : Word16) (y : Reg) : (s.setI w).getV y = s.getV y := rfl
@[simp] theorem State.setI_getStack (w : Word16) (j : Fin 16) : (s.setI w).getStack j = s.getStack j := rfl
@[simp] theorem State.setI_pixel (w : Word16) (p : Pixel) : (s.setI w).pixel p = s.pixel p := rfl
@[simp] theorem State.setI_readByte (w : Word16) (a : Nat) : (s.setI w).readByte a = s.readByte a := rfl
@[simp] theorem State.setI_halted (w : Word16) : (s.setI w).halted = s.halted := rfl

/-! ### `setPc` -/

@[simp] theorem State.setPc_v (w : Word16) : (s.setPc w).v = s.v := rfl
@[simp] theorem State.setPc_i (w : Word16) : (s.setPc w).i = s.i := rfl
@[simp] theorem State.setPc_pc (w : Word16) : (s.setPc w).pc = w := rfl
@[simp] theorem State.setPc_sp (w : Word16) : (s.setPc w).sp = s.sp := rfl
@[simp] theorem State.setPc_stack (w : Word16) : (s.setPc w).stack = s.stack := rfl
@[simp] theorem State.setPc_dt (w : Word16) : (s.setPc w).dt = s.dt := rfl
@[simp] theorem State.setPc_st (w : Word16) : (s.setPc w).st = s.st := rfl
@[simp] theorem State.setPc_keys (w : Word16) : (s.setPc w).keys = s.keys := rfl
@[simp] theorem State.setPc_fb (w : Word16) : (s.setPc w).fb = s.fb := rfl
@[simp] theorem State.setPc_mem (w : Word16) : (s.setPc w).mem = s.mem := rfl
@[simp] theorem State.setPc_fault (w : Word16) : (s.setPc w).fault = s.fault := rfl
@[simp] theorem State.setPc_quirks (w : Word16) : (s.setPc w).quirks = s.quirks := rfl
@[simp] theorem State.setPc_rndCount (w : Word16) : (s.setPc w).rndCount = s.rndCount := rfl
@[simp] theorem State.setPc_getV (w : Word16) (y : Reg) : (s.setPc w).getV y = s.getV y := rfl
@[simp] theorem State.setPc_getStack (w : Word16) (j : Fin 16) : (s.setPc w).getStack j = s.getStack j := rfl
@[simp] theorem State.setPc_pixel (w : Word16) (p : Pixel) : (s.setPc w).pixel p = s.pixel p := rfl
@[simp] theorem State.setPc_readByte (w : Word16) (a : Nat) : (s.setPc w).readByte a = s.readByte a := rfl
@[simp] theorem State.setPc_halted (w : Word16) : (s.setPc w).halted = s.halted := rfl

/-! ### `setDt` -/

@[simp] theorem State.setDt_v (b : Byte) : (s.setDt b).v = s.v := rfl
@[simp] theorem State.setDt_i (b : Byte) : (s.setDt b).i = s.i := rfl
@[simp] theorem State.setDt_pc (b : Byte) : (s.setDt b).pc = s.pc := rfl
@[simp] theorem State.setDt_sp (b : Byte) : (s.setDt b).sp = s.sp := rfl
@[simp] theorem State.setDt_stack (b : Byte) : (s.setDt b).stack = s.stack := rfl
@[simp] theorem State.setDt_dt (b : Byte) : (s.setDt b).dt = b := rfl
@[simp] theorem State.setDt_st (b : Byte) : (s.setDt b).st = s.st := rfl
@[simp] theorem State.setDt_keys (b : Byte) : (s.setDt b).keys = s.keys := rfl
@[simp] theorem State.setDt_fb (b : Byte) : (s.setDt b).fb = s.fb := rfl
@[simp] theorem State.setDt_mem (b : Byte) : (s.setDt b).mem = s.mem := rfl
@[simp] theorem State.setDt_fault (b : Byte) : (s.setDt b).fault = s.fault := rfl
@[simp] theorem State.setDt_quirks (b : Byte) : (s.setDt b).quirks = s.quirks := rfl
@[simp] theorem State.setDt_rndCount (b : Byte) : (s.setDt b).rndCount = s.rndCount := rfl
@[simp] theorem State.setDt_getV (b : Byte) (y : Reg) : (s.setDt b).getV y = s.getV y := rfl
@[simp] theorem State.setDt_getStack (b : Byte) (j : Fin 16) : (s.setDt b).getStack j = s.getStack j := rfl
@[simp] theorem State.setDt_pixel (b : Byte) (p : Pixel) : (s.setDt b).pixel p = s.pixel p := rfl
@[simp] theorem State.setDt_readByte (b : Byte) (a : Nat) : (s.setDt b).readByte a = s.readByte a := rfl
@[simp] theorem State.setDt_halted (b : Byte) : (s.setDt b).halted = s.halted := rfl

/-! ### `setSt` -/

@[simp] theorem State.setSt_v (b : Byte) : (s.setSt b).v = s.v := rfl
@[simp] theorem State.setSt_i (b : Byte) : (s.setSt b).i = s.i := rfl
@[simp] theorem State.setSt_pc (b : Byte) : (s.setSt b).pc = s.pc := rfl
@[simp] theorem State.setSt_sp (b : Byte) : (s.setSt b).sp = s.sp := rfl
@[simp] theorem State.setSt_stack (b : Byte) : (s.setSt b).stack = s.stack := rfl
@[simp] theorem State.setSt_dt (b : Byte) : (s.setSt b).dt = s.dt := rfl
@[simp] theorem State.setSt_st (b : Byte) : (s.setSt b).st = b := rfl
@[simp] theorem State.setSt_keys (b : Byte) : (s.setSt b).keys = s.keys := rfl
@[simp] theorem State.setSt_fb (b : Byte) : (s.setSt b).fb = s.fb := rfl
@[simp] theorem State.setSt_mem (b : Byte) : (s.setSt b).mem = s.mem := rfl
@[simp] theorem State.setSt_fault (b : Byte) : (s.setSt b).fault = s.fault := rfl
@[simp] theorem State.setSt_quirks (b : Byte) : (s.setSt b).quirks = s.quirks := rfl
@[simp] theorem State.setSt_rndCount (b : Byte) : (s.setSt b).rndCount = s.rndCount := rfl
@[simp] theorem State.setSt_getV (b : Byte) (y : Reg) : (s.setSt b).getV y = s.getV y := rfl
@[simp] theorem State.setSt_getStack (b : Byte) (j : Fin 16) : (s.setSt b).getStack j = s.getStack j := rfl
@[simp] theorem State.setSt_pixel (b : Byte) (p : Pixel) : (s.setSt b).pixel p = s.pixel p := rfl
@[simp] theorem State.setSt_readByte (b : Byte) (a : Nat) : (s.setSt b).readByte a = s.readByte a := rfl
@[simp] theorem State.setSt_halted (b : Byte) : (s.setSt b).halted = s.halted := rfl

/-! ### `setKeys` -/

@[simp] theorem State.setKeys_v (k : BitVec 16) : (s.setKeys k).v = s.v := rfl
@[simp] theorem State.setKeys_i (k : BitVec 16) : (s.setKeys k).i = s.i := rfl
@[simp] theorem State.setKeys_pc (k : BitVec 16) : (s.setKeys k).pc = s.pc := rfl
@[simp] theorem State.setKeys_sp (k : BitVec 16) : (s.setKeys k).sp = s.sp := rfl
@[simp] theorem State.setKeys_stack (k : BitVec 16) : (s.setKeys k).stack = s.stack := rfl
@[simp] theorem State.setKeys_dt (k : BitVec 16) : (s.setKeys k).dt = s.dt := rfl
@[simp] theorem State.setKeys_st (k : BitVec 16) : (s.setKeys k).st = s.st := rfl
@[simp] theorem State.setKeys_keys (k : BitVec 16) : (s.setKeys k).keys = k := rfl
@[simp] theorem State.setKeys_fb (k : BitVec 16) : (s.setKeys k).fb = s.fb := rfl
@[simp] theorem State.setKeys_mem (k : BitVec 16) : (s.setKeys k).mem = s.mem := rfl
@[simp] theorem State.setKeys_fault (k : BitVec 16) : (s.setKeys k).fault = s.fault := rfl
@[simp] theorem State.setKeys_quirks (k : BitVec 16) : (s.setKeys k).quirks = s.quirks := rfl
@[simp] theorem State.setKeys_rndCount (k : BitVec 16) : (s.setKeys k).rndCount = s.rndCount := rfl
@[simp] theorem State.setKeys_getV (k : BitVec 16) (y : Reg) : (s.setKeys k).getV y = s.getV y := rfl
@[simp] theorem State.setKeys_getStack (k : BitVec 16) (j : Fin 16) : (s.setKeys k).getStack j = s.getStack j := rfl
@[simp] theorem State.setKeys_pixel (k : BitVec 16) (p : Pixel) : (s.setKeys k).pixel p = s.pixel p := rfl
@[simp] theorem State.setKeys_readByte (k : BitVec 16) (a : Nat) : (s.setKeys k).readByte a = s.readByte a := rfl
@[simp] theorem State.setKeys_halted (k : BitVec 16) : (s.setKeys k).halted = s.halted := rfl

/-! ### `setFb` -/

@[simp] theorem State.setFb_v (fb : FrameBuffer) : (s.setFb fb).v = s.v := rfl
@[simp] theorem State.setFb_i (fb : FrameBuffer) : (s.setFb fb).i = s.i := rfl
@[simp] theorem State.setFb_pc (fb : FrameBuffer) : (s.setFb fb).pc = s.pc := rfl
@[simp] theorem State.setFb_sp (fb : FrameBuffer) : (s.setFb fb).sp = s.sp := rfl
@[simp] theorem State.setFb_stack (fb : FrameBuffer) : (s.setFb fb).stack = s.stack := rfl
@[simp] theorem State.setFb_dt (fb : FrameBuffer) : (s.setFb fb).dt = s.dt := rfl
@[simp] theorem State.setFb_st (fb : FrameBuffer) : (s.setFb fb).st = s.st := rfl
@[simp] theorem State.setFb_keys (fb : FrameBuffer) : (s.setFb fb).keys = s.keys := rfl
@[simp] theorem State.setFb_fb (fb : FrameBuffer) : (s.setFb fb).fb = fb := rfl
@[simp] theorem State.setFb_mem (fb : FrameBuffer) : (s.setFb fb).mem = s.mem := rfl
@[simp] theorem State.setFb_fault (fb : FrameBuffer) : (s.setFb fb).fault = s.fault := rfl
@[simp] theorem State.setFb_quirks (fb : FrameBuffer) : (s.setFb fb).quirks = s.quirks := rfl
@[simp] theorem State.setFb_rndCount (fb : FrameBuffer) : (s.setFb fb).rndCount = s.rndCount := rfl
@[simp] theorem State.setFb_getV (fb : FrameBuffer) (y : Reg) : (s.setFb fb).getV y = s.getV y := rfl
@[simp] theorem State.setFb_getStack (fb : FrameBuffer) (j : Fin 16) : (s.setFb fb).getStack j = s.getStack j := rfl
@[simp] theorem State.setFb_readByte (fb : FrameBuffer) (a : Nat) : (s.setFb fb).readByte a = s.readByte a := rfl
@[simp] theorem State.setFb_halted (fb : FrameBuffer) : (s.setFb fb).halted = s.halted := rfl

/-! ### `setMem` -/

@[simp] theorem State.setMem_v (m : Memory) : (s.setMem m).v = s.v := rfl
@[simp] theorem State.setMem_i (m : Memory) : (s.setMem m).i = s.i := rfl
@[simp] theorem State.setMem_pc (m : Memory) : (s.setMem m).pc = s.pc := rfl
@[simp] theorem State.setMem_sp (m : Memory) : (s.setMem m).sp = s.sp := rfl
@[simp] theorem State.setMem_stack (m : Memory) : (s.setMem m).stack = s.stack := rfl
@[simp] theorem State.setMem_dt (m : Memory) : (s.setMem m).dt = s.dt := rfl
@[simp] theorem State.setMem_st (m : Memory) : (s.setMem m).st = s.st := rfl
@[simp] theorem State.setMem_keys (m : Memory) : (s.setMem m).keys = s.keys := rfl
@[simp] theorem State.setMem_fb (m : Memory) : (s.setMem m).fb = s.fb := rfl
@[simp] theorem State.setMem_mem (m : Memory) : (s.setMem m).mem = m := rfl
@[simp] theorem State.setMem_fault (m : Memory) : (s.setMem m).fault = s.fault := rfl
@[simp] theorem State.setMem_quirks (m : Memory) : (s.setMem m).quirks = s.quirks := rfl
@[simp] theorem State.setMem_rndCount (m : Memory) : (s.setMem m).rndCount = s.rndCount := rfl
@[simp] theorem State.setMem_getV (m : Memory) (y : Reg) : (s.setMem m).getV y = s.getV y := rfl
@[simp] theorem State.setMem_getStack (m : Memory) (j : Fin 16) : (s.setMem m).getStack j = s.getStack j := rfl
@[simp] theorem State.setMem_pixel (m : Memory) (p : Pixel) : (s.setMem m).pixel p = s.pixel p := rfl
@[simp] theorem State.setMem_halted (m : Memory) : (s.setMem m).halted = s.halted := rfl

/-! ### `setFault` -/

@[simp] theorem State.setFault_v (f : FaultRecord) : (s.setFault f).v = s.v := rfl
@[simp] theorem State.setFault_i (f : FaultRecord) : (s.setFault f).i = s.i := rfl
@[simp] theorem State.setFault_pc (f : FaultRecord) : (s.setFault f).pc = s.pc := rfl
@[simp] theorem State.setFault_sp (f : FaultRecord) : (s.setFault f).sp = s.sp := rfl
@[simp] theorem State.setFault_stack (f : FaultRecord) : (s.setFault f).stack = s.stack := rfl
@[simp] theorem State.setFault_dt (f : FaultRecord) : (s.setFault f).dt = s.dt := rfl
@[simp] theorem State.setFault_st (f : FaultRecord) : (s.setFault f).st = s.st := rfl
@[simp] theorem State.setFault_keys (f : FaultRecord) : (s.setFault f).keys = s.keys := rfl
@[simp] theorem State.setFault_fb (f : FaultRecord) : (s.setFault f).fb = s.fb := rfl
@[simp] theorem State.setFault_mem (f : FaultRecord) : (s.setFault f).mem = s.mem := rfl
@[simp] theorem State.setFault_fault (f : FaultRecord) : (s.setFault f).fault = f := rfl
@[simp] theorem State.setFault_quirks (f : FaultRecord) : (s.setFault f).quirks = s.quirks := rfl
@[simp] theorem State.setFault_rndCount (f : FaultRecord) : (s.setFault f).rndCount = s.rndCount := rfl
@[simp] theorem State.setFault_getV (f : FaultRecord) (y : Reg) : (s.setFault f).getV y = s.getV y := rfl
@[simp] theorem State.setFault_getStack (f : FaultRecord) (j : Fin 16) : (s.setFault f).getStack j = s.getStack j := rfl
@[simp] theorem State.setFault_pixel (f : FaultRecord) (p : Pixel) : (s.setFault f).pixel p = s.pixel p := rfl
@[simp] theorem State.setFault_readByte (f : FaultRecord) (a : Nat) : (s.setFault f).readByte a = s.readByte a := rfl

/-! ### `consumeRnd` -/

@[simp] theorem State.consumeRnd_v : s.consumeRnd.v = s.v := rfl
@[simp] theorem State.consumeRnd_i : s.consumeRnd.i = s.i := rfl
@[simp] theorem State.consumeRnd_pc : s.consumeRnd.pc = s.pc := rfl
@[simp] theorem State.consumeRnd_sp : s.consumeRnd.sp = s.sp := rfl
@[simp] theorem State.consumeRnd_stack : s.consumeRnd.stack = s.stack := rfl
@[simp] theorem State.consumeRnd_dt : s.consumeRnd.dt = s.dt := rfl
@[simp] theorem State.consumeRnd_st : s.consumeRnd.st = s.st := rfl
@[simp] theorem State.consumeRnd_keys : s.consumeRnd.keys = s.keys := rfl
@[simp] theorem State.consumeRnd_fb : s.consumeRnd.fb = s.fb := rfl
@[simp] theorem State.consumeRnd_mem : s.consumeRnd.mem = s.mem := rfl
@[simp] theorem State.consumeRnd_fault : s.consumeRnd.fault = s.fault := rfl
@[simp] theorem State.consumeRnd_quirks : s.consumeRnd.quirks = s.quirks := rfl
@[simp] theorem State.consumeRnd_rndCount : s.consumeRnd.rndCount = s.rndCount + 1 := rfl
@[simp] theorem State.consumeRnd_getV (y : Reg) : s.consumeRnd.getV y = s.getV y := rfl
@[simp] theorem State.consumeRnd_getStack (j : Fin 16) : s.consumeRnd.getStack j = s.getStack j := rfl
@[simp] theorem State.consumeRnd_pixel (p : Pixel) : s.consumeRnd.pixel p = s.pixel p := rfl
@[simp] theorem State.consumeRnd_readByte (a : Nat) : s.consumeRnd.readByte a = s.readByte a := rfl
@[simp] theorem State.consumeRnd_halted : s.consumeRnd.halted = s.halted := rfl

/-! ### Accessors after the update of their own field -/

@[simp] theorem State.getV_setV (x y : Reg) (b : Byte) : (s.setV x b).getV y = if y = x then b else s.getV y := by
  simp only [State.getV, State.setV, Fin.getElem_fin, Vector.getElem_set, Fin.ext_iff, eq_comm]

@[simp] theorem State.getV_setAllV (vs : Vector Byte 16) (y : Reg) : (s.setAllV vs).getV y = vs[y.val] := rfl

/-- A block load: the registers up to `X` from memory, the others as before (R126). -/
@[simp] theorem State.getElem_loadedRegs (x y : Reg) :
    (s.loadedRegs x)[y.val] = if y ≤ x then s.readByte (s.effAddr y.val) else s.getV y := by
  simp [State.loadedRegs]

/-- A block store moves `X + 1` bytes (R125). -/
@[simp] theorem State.length_regBlock (x : Reg) : (s.regBlock x).length = x.val + 1 := by
  simp [State.regBlock]

/-- The `k`-th byte of a block store is `V[k]` (R125). -/
theorem State.getElem?_regBlock (x k : Reg) :
    (s.regBlock x)[k.val]? = if k ≤ x then some (s.getV k) else none := by
  by_cases h : k ≤ x
  · have h' : k.val ≤ x.val := h
    simp [State.regBlock, State.getV, h, h']
  · have h' : ¬ k.val ≤ x.val := h
    simp [State.regBlock, h, h']

@[simp] theorem State.pixel_setFb (fb : FrameBuffer) (p : Pixel) : (s.setFb fb).pixel p = FrameBuffer.pixel fb p := rfl

@[simp] theorem State.readByte_setMem (m : Memory) (a : Nat) : (s.setMem m).readByte a = Memory.read m a := rfl

/-! ### The composed updates, as the plain ones they are made of -/

@[simp] theorem State.advance_eq : s.advance = s.setPc (s.pc + 2#16) := rfl

@[simp] theorem State.skipNext_eq : s.skipNext = s.setPc (s.pc + 4#16) := rfl

@[simp] theorem State.storeBytes_eq (a : Nat) (bs : List Byte) :
    s.storeBytes a bs = s.setMem (Memory.writeList s.mem a bs) := rfl

@[simp] theorem State.raise_eq (k : FaultKind) (word : Word16) (addr : Nat) :
    s.raise k word addr = s.setFault { kind := k, pc := s.pc, word := word, addr := BitVec.ofNat 17 addr } := rfl

@[simp] theorem State.writeResultFlag_eq (x : Reg) (r f : Byte) :
    s.writeResultFlag x r f = (s.setV x r).setV flagReg f := rfl

/-- A skip moves `PC` by 4 or by 2 and nothing else. -/
@[simp] theorem State.skipIf_eq (c : Bool) : s.skipIf c = s.setPc (s.pc + if c then 4#16 else 2#16) := by
  cases c <;> rfl

/-- The logic quirk writes `V[0xF]` last or not at all (R103). -/
theorem State.writeLogicResult_eq (x : Reg) (r : Byte) :
    s.writeLogicResult x r = if s.quirks.logicResetsVf then (s.setV x r).setV flagReg 0#8 else s.setV x r := rfl

/-- The load/store quirk moves `I` or nothing (R125). -/
@[simp] theorem State.bumpI_eq (x : Reg) :
    s.bumpI x = s.setI (if s.quirks.loadStoreIncI then s.i + BitVec.ofNat 16 (x.val + 1) else s.i) := by
  unfold State.bumpI; split <;> rfl

end Sys2Proof.Machine
end

