-- ==== Sys2Proof/Laws/Ops.lean ====
section
/-! SUPPORT. For each shared operation, everything it can do, said once: the stack, the bounds check, the framebuffer, the
lowest key, taking a fault, and the frame. -/

namespace Sys2Proof.Machine

variable (s : State)

/-! ## The call stack (R16, R17) -/

/-- A push with an entry free writes that entry and counts it; with none free it does nothing. -/
theorem State.push_cases (w : Word16) :
    (∃ h : s.sp.val < 16, s.push w = some { s with stack := s.stack.set s.sp.val w h, sp := ⟨s.sp.val + 1, by omega⟩ }) ∨
      (s.sp.val = 16 ∧ s.push w = none) := by
  by_cases h : s.sp.val < 16
  · exact .inl ⟨h, by simp [State.push, h]⟩
  · exact .inr ⟨by have := s.sp.isLt; omega, by simp [State.push, h]⟩

/-- A pop with an entry valid answers that entry and uncounts it; with none valid it does nothing. -/
theorem State.pop_cases :
    (∃ (_h : 0 < s.sp.val) (hj : s.sp.val - 1 < 16),
      s.pop = some (s.stack[s.sp.val - 1], { s with sp := ⟨s.sp.val - 1, by omega⟩ })) ∨
      (s.sp.val = 0 ∧ s.pop = none) := by
  by_cases h : 0 < s.sp.val
  · exact .inl ⟨h, by have := s.sp.isLt; omega, by simp [State.pop, h]⟩
  · exact .inr ⟨by omega, by simp [State.pop, h]⟩

/-! ## The bounds check (R44) -/

theorem outOfRange_eq_none (base n : Nat) : outOfRange base n = none ↔ n = 0 ∨ base + n ≤ 0x1000 := by
  unfold outOfRange Config.addrMax
  split
  · simp; omega
  · simp; omega

theorem outOfRange_eq_some (base n a : Nat) :
    outOfRange base n = some a ↔ 0 < n ∧ 0x1000 < base + n ∧ a = max base 0x1000 := by
  unfold outOfRange Config.addrMax
  split
  · simp; omega
  · simp; omega

/-! ## The framebuffer (R21, R143) -/

/-- A flip changes its own pixel and no other. -/
theorem FrameBuffer.pixel_flip (fb : FrameBuffer) (p q : Pixel) :
    FrameBuffer.pixel (FrameBuffer.flip fb p) q = if q = p then !FrameBuffer.pixel fb p else FrameBuffer.pixel fb q := by
  obtain ⟨px, py⟩ := p
  obtain ⟨qx, qy⟩ := q
  simp only [FrameBuffer.pixel, FrameBuffer.flip, Fin.getElem_fin, Vector.getElem_set, Prod.mk.injEq, Fin.ext_iff]
  by_cases hy : py.val = qy.val
  · by_cases hx : px.val = qx.val
    · simp [hx, hy, qx.isLt]
    · have hx' : ¬ qx.val = px.val := fun e => hx e.symm
      simp [hx', hy]
  · have hy' : ¬ qy.val = py.val := fun e => hy e.symm
    simp [hy, hy']

@[simp] theorem FrameBuffer.pixel_blank (p : Pixel) : FrameBuffer.pixel FrameBuffer.blank p = false := by
  simp [FrameBuffer.pixel, FrameBuffer.blank]

/-- Two framebuffers with the same pixels are the same. -/
theorem FrameBuffer.ext_pixel (fb fb' : FrameBuffer) (h : ∀ p, FrameBuffer.pixel fb p = FrameBuffer.pixel fb' p) :
    fb = fb' := by
  apply Vector.ext
  intro j hj
  apply BitVec.eq_of_getLsbD_eq
  intro k hk
  exact h (⟨k, hk⟩, ⟨j, hj⟩)

/-! ## The keypad (R164) -/

/-- The lowest key held, or none is held. -/
theorem State.lowestKey_cases :
    (∃ k, s.lowestKey = some k ∧ s.keyDown k = true ∧ ∀ j, j < k → s.keyDown j = false) ∨
      (s.lowestKey = none ∧ ∀ k, s.keyDown k = false) := by
  cases h : s.lowestKey with
  | none =>
    refine .inr ⟨rfl, fun k => ?_⟩
    have := List.find?_eq_none.mp h k (List.mem_finRange k)
    simpa using this
  | some k =>
    refine .inl ⟨k, rfl, by simpa using List.find?_some h, fun j hj => ?_⟩
    have := (List.find?_eq_some_iff_getElem.mp h).2
    obtain ⟨n, hn, hk, hlt⟩ := this
    have hkn : k.val = n := by rw [← hk]; simp
    have := hlt j.val (by have : j.val < k.val := hj; omega)
    simpa using this

/-! ## Frames and faults -/

theorem Frame.refl (c : Part → Prop) : Frame s s c := by
  intro p _
  cases p <;> rfl

theorem Frame.mono {s t : State} {c d : Part → Prop} (h : Frame s t c) (hcd : ∀ p, c p → d p) : Frame s t d :=
  fun p hp => h p fun hc => hp (hcd p hc)

theorem Frame.trans {s t u : State} {c d : Part → Prop} (h : Frame s t c) (h' : Frame t u d) :
    Frame s u (fun p => c p ∨ d p) := by
  intro p hp
  have h1 := h p fun hc => hp (.inl hc)
  have h2 := h' p fun hd => hp (.inr hd)
  cases p <;> exact Eq.trans h2 h1

/-- What taking a fault does (R186), for the addresses 17 bits hold. -/
theorem raised_raise (k : FaultKind) (word : Word16) (addr : Nat) (h : addr < 131072) :
    Raised s (s.raise k word addr) k word addr := by
  refine ⟨rfl, rfl, rfl, ?_, ?_⟩
  · simp [Nat.mod_eq_of_lt h]
  · intro p hp
    cases p <;> first | rfl | exact absurd rfl hp

/-- The core is halted exactly when `FAULT.kind` is not none (R23). -/
theorem State.halted_iff : s.halted = true ↔ s.fault.kind ≠ .none := by simp [State.halted]

theorem State.not_halted_iff : s.halted = false ↔ s.fault.kind = .none := by simp [State.halted]

end Sys2Proof.Machine
end

