-- ==== Sys2Proof/Laws/PerInstr.lean ====
section
/-! SUPPORT. Statements for all instructions, one lemma per constructor. -/

namespace Sys2Proof.Laws

/-- Every operand fits its field: the constructors' types hold it there (R65). -/
def OperandsFit.Statement (i : Instr) : Prop := i.wf = true

/-- The encoded word lies in the instruction's row of the table of R63. -/
def EncodesItsRow.Statement (i : Instr) : Prop := i.row.selects (encode i) = true ∧ i.row ∈ opcodeRows

theorem wf_of_all {i : Instr} (h : ∀ o ∈ i.operands, o.wf = true) : OperandsFit.Statement i := by
  simpa [OperandsFit.Statement, Instr.wf, List.all_eq_true] using h

theorem nibble_and_mask (b : Nibble) : b &&& 0xF#4 = b := BitVec.and_allOnes

theorem byte_and_mask (b : Byte) : b &&& 0xFF#8 = b := BitVec.and_allOnes

theorem selects_encNNN (op m k' : Nibble) (nnn k p : Addr12) (h1 : op &&& m = k') (h2 : nnn &&& k = p) :
    OpcodeRow.selects ⟨encNNN k' p, encNNN m k⟩ (encNNN op nnn) = true := by
  simp [OpcodeRow.selects, encNNN_and, h1, h2]

/-- A row that fixes only the family. -/
theorem selects_family (op : Nibble) (nnn : Addr12) :
    OpcodeRow.selects ⟨encNNN op 0#12, 0xF000#16⟩ (encNNN op nnn) = true := by
  have : (0xF000#16 : Word16) = encNNN 0xF#4 0#12 := by decide
  rw [this]
  exact selects_encNNN _ _ _ _ _ _ (nibble_and_mask op) (by simp)

/-- A row that fixes the family and the low byte. -/
theorem selects_lowByte (op : Nibble) (x : Reg) (nn : Byte) :
    OpcodeRow.selects ⟨encXNN op 0 nn, 0xF0FF#16⟩ (encXNN op x nn) = true := by
  have : (0xF0FF#16 : Word16) = encNNN 0xF#4 (0x0#4 ++ 0xFF#8) := by decide
  rw [this]
  refine selects_encNNN _ _ _ _ _ _ (nibble_and_mask op) ?_
  have h : (regBits x ++ nn) &&& (0x0#4 ++ 0xFF#8) = (regBits x &&& 0x0#4) ++ (nn &&& 0xFF#8) := BitVec.and_append
  rw [h]
  have h2 : nn &&& 0xFF#8 = nn := byte_and_mask nn
  rw [h2]
  simp [regBits]

/-- A row that fixes the family and the low nibble. -/
theorem selects_lowNibble (op : Nibble) (x y : Reg) (n : Nibble) :
    OpcodeRow.selects ⟨encXYN op 0 0 n, 0xF00F#16⟩ (encXYN op x y n) = true := by
  have : (0xF00F#16 : Word16) = encNNN 0xF#4 (0x0#4 ++ (0x0#4 ++ 0xF#4)) := by decide
  rw [this]
  refine selects_encNNN _ _ _ _ _ _ (nibble_and_mask op) ?_
  have h : (regBits x ++ (regBits y ++ n)) &&& (0x0#4 ++ (0x0#4 ++ 0xF#4)) =
      (regBits x &&& 0x0#4) ++ ((regBits y &&& 0x0#4) ++ (n &&& 0xF#4)) := by
    rw [← BitVec.and_append, ← BitVec.and_append]
  refine h.trans ?_
  have h2 : n &&& 0xF#4 = n := nibble_and_mask n
  rw [h2]
  simp [regBits]

namespace OperandsFit

theorem cls : Statement .cls := rfl
theorem ret : Statement .ret := rfl
theorem jp (nnn : Addr12) : Statement (.jp nnn) := wf_of_all (by simp [Instr.operands, Operand.wf]; try omega)
theorem call (nnn : Addr12) : Statement (.call nnn) := wf_of_all (by simp [Instr.operands, Operand.wf]; try omega)
theorem seImm (x : Reg) (nn : Byte) : Statement (.seImm x nn) := wf_of_all (by simp [Instr.operands, Operand.wf]; try omega)
theorem sneImm (x : Reg) (nn : Byte) : Statement (.sneImm x nn) := wf_of_all (by simp [Instr.operands, Operand.wf]; try omega)
theorem seReg (x y : Reg) : Statement (.seReg x y) := wf_of_all (by simp [Instr.operands, Operand.wf]; try omega)
theorem ldImm (x : Reg) (nn : Byte) : Statement (.ldImm x nn) := wf_of_all (by simp [Instr.operands, Operand.wf]; try omega)
theorem addImm (x : Reg) (nn : Byte) : Statement (.addImm x nn) := wf_of_all (by simp [Instr.operands, Operand.wf]; try omega)
theorem ldReg (x y : Reg) : Statement (.ldReg x y) := wf_of_all (by simp [Instr.operands, Operand.wf]; try omega)
theorem orReg (x y : Reg) : Statement (.orReg x y) := wf_of_all (by simp [Instr.operands, Operand.wf]; try omega)
theorem andReg (x y : Reg) : Statement (.andReg x y) := wf_of_all (by simp [Instr.operands, Operand.wf]; try omega)
theorem xorReg (x y : Reg) : Statement (.xorReg x y) := wf_of_all (by simp [Instr.operands, Operand.wf]; try omega)
theorem addReg (x y : Reg) : Statement (.addReg x y) := wf_of_all (by simp [Instr.operands, Operand.wf]; try omega)
theorem subReg (x y : Reg) : Statement (.subReg x y) := wf_of_all (by simp [Instr.operands, Operand.wf]; try omega)
theorem shr (x y : Reg) : Statement (.shr x y) := wf_of_all (by simp [Instr.operands, Operand.wf]; try omega)
theorem subnReg (x y : Reg) : Statement (.subnReg x y) := wf_of_all (by simp [Instr.operands, Operand.wf]; try omega)
theorem shl (x y : Reg) : Statement (.shl x y) := wf_of_all (by simp [Instr.operands, Operand.wf]; try omega)
theorem sneReg (x y : Reg) : Statement (.sneReg x y) := wf_of_all (by simp [Instr.operands, Operand.wf]; try omega)
theorem ldI (nnn : Addr12) : Statement (.ldI nnn) := wf_of_all (by simp [Instr.operands, Operand.wf]; try omega)
theorem jpV0 (nnn : Addr12) : Statement (.jpV0 nnn) := wf_of_all (by simp [Instr.operands, Operand.wf]; try omega)
theorem rnd (x : Reg) (nn : Byte) : Statement (.rnd x nn) := wf_of_all (by simp [Instr.operands, Operand.wf]; try omega)
theorem drw (x y : Reg) (n : Nibble) : Statement (.drw x y n) := wf_of_all (by simp [Instr.operands, Operand.wf]; try omega)
theorem skp (x : Reg) : Statement (.skp x) := wf_of_all (by simp [Instr.operands, Operand.wf]; try omega)
theorem sknp (x : Reg) : Statement (.sknp x) := wf_of_all (by simp [Instr.operands, Operand.wf]; try omega)
theorem ldVxDt (x : Reg) : Statement (.ldVxDt x) := wf_of_all (by simp [Instr.operands, Operand.wf]; try omega)
theorem ldVxK (x : Reg) : Statement (.ldVxK x) := wf_of_all (by simp [Instr.operands, Operand.wf]; try omega)
theorem ldDtVx (x : Reg) : Statement (.ldDtVx x) := wf_of_all (by simp [Instr.operands, Operand.wf]; try omega)
theorem ldStVx (x : Reg) : Statement (.ldStVx x) := wf_of_all (by simp [Instr.operands, Operand.wf]; try omega)
theorem addI (x : Reg) : Statement (.addI x) := wf_of_all (by simp [Instr.operands, Operand.wf]; try omega)
theorem ldF (x : Reg) : Statement (.ldF x) := wf_of_all (by simp [Instr.operands, Operand.wf]; try omega)
theorem ldB (x : Reg) : Statement (.ldB x) := wf_of_all (by simp [Instr.operands, Operand.wf]; try omega)
theorem storeRegs (x : Reg) : Statement (.storeRegs x) := wf_of_all (by simp [Instr.operands, Operand.wf]; try omega)
theorem loadRegs (x : Reg) : Statement (.loadRegs x) := wf_of_all (by simp [Instr.operands, Operand.wf]; try omega)

end OperandsFit

namespace EncodesItsRow

theorem cls : Statement .cls := ⟨by decide, by decide⟩
theorem ret : Statement .ret := ⟨by decide, by decide⟩
theorem jp (nnn : Addr12) : Statement (.jp nnn) := ⟨selects_family _ _, by simp [Instr.row, opcodeRows]⟩
theorem call (nnn : Addr12) : Statement (.call nnn) := ⟨selects_family _ _, by simp [Instr.row, opcodeRows]⟩
theorem seImm (x : Reg) (nn : Byte) : Statement (.seImm x nn) := ⟨selects_family _ _, by simp [Instr.row, opcodeRows]⟩
theorem sneImm (x : Reg) (nn : Byte) : Statement (.sneImm x nn) := ⟨selects_family _ _, by simp [Instr.row, opcodeRows]⟩
theorem seReg (x y : Reg) : Statement (.seReg x y) := ⟨selects_lowNibble _ _ _ _, by simp [Instr.row, opcodeRows]⟩
theorem ldImm (x : Reg) (nn : Byte) : Statement (.ldImm x nn) := ⟨selects_family _ _, by simp [Instr.row, opcodeRows]⟩
theorem addImm (x : Reg) (nn : Byte) : Statement (.addImm x nn) := ⟨selects_family _ _, by simp [Instr.row, opcodeRows]⟩
theorem ldReg (x y : Reg) : Statement (.ldReg x y) := ⟨selects_lowNibble _ _ _ _, by simp [Instr.row, opcodeRows]⟩
theorem orReg (x y : Reg) : Statement (.orReg x y) := ⟨selects_lowNibble _ _ _ _, by simp [Instr.row, opcodeRows]⟩
theorem andReg (x y : Reg) : Statement (.andReg x y) := ⟨selects_lowNibble _ _ _ _, by simp [Instr.row, opcodeRows]⟩
theorem xorReg (x y : Reg) : Statement (.xorReg x y) := ⟨selects_lowNibble _ _ _ _, by simp [Instr.row, opcodeRows]⟩
theorem addReg (x y : Reg) : Statement (.addReg x y) := ⟨selects_lowNibble _ _ _ _, by simp [Instr.row, opcodeRows]⟩
theorem subReg (x y : Reg) : Statement (.subReg x y) := ⟨selects_lowNibble _ _ _ _, by simp [Instr.row, opcodeRows]⟩
theorem shr (x y : Reg) : Statement (.shr x y) := ⟨selects_lowNibble _ _ _ _, by simp [Instr.row, opcodeRows]⟩
theorem subnReg (x y : Reg) : Statement (.subnReg x y) := ⟨selects_lowNibble _ _ _ _, by simp [Instr.row, opcodeRows]⟩
theorem shl (x y : Reg) : Statement (.shl x y) := ⟨selects_lowNibble _ _ _ _, by simp [Instr.row, opcodeRows]⟩
theorem sneReg (x y : Reg) : Statement (.sneReg x y) := ⟨selects_lowNibble _ _ _ _, by simp [Instr.row, opcodeRows]⟩
theorem ldI (nnn : Addr12) : Statement (.ldI nnn) := ⟨selects_family _ _, by simp [Instr.row, opcodeRows]⟩
theorem jpV0 (nnn : Addr12) : Statement (.jpV0 nnn) := ⟨selects_family _ _, by simp [Instr.row, opcodeRows]⟩
theorem rnd (x : Reg) (nn : Byte) : Statement (.rnd x nn) := ⟨selects_family _ _, by simp [Instr.row, opcodeRows]⟩
theorem drw (x y : Reg) (n : Nibble) : Statement (.drw x y n) := ⟨selects_family _ _, by simp [Instr.row, opcodeRows]⟩
theorem skp (x : Reg) : Statement (.skp x) := ⟨selects_lowByte _ _ _, by simp [Instr.row, opcodeRows]⟩
theorem sknp (x : Reg) : Statement (.sknp x) := ⟨selects_lowByte _ _ _, by simp [Instr.row, opcodeRows]⟩
theorem ldVxDt (x : Reg) : Statement (.ldVxDt x) := ⟨selects_lowByte _ _ _, by simp [Instr.row, opcodeRows]⟩
theorem ldVxK (x : Reg) : Statement (.ldVxK x) := ⟨selects_lowByte _ _ _, by simp [Instr.row, opcodeRows]⟩
theorem ldDtVx (x : Reg) : Statement (.ldDtVx x) := ⟨selects_lowByte _ _ _, by simp [Instr.row, opcodeRows]⟩
theorem ldStVx (x : Reg) : Statement (.ldStVx x) := ⟨selects_lowByte _ _ _, by simp [Instr.row, opcodeRows]⟩
theorem addI (x : Reg) : Statement (.addI x) := ⟨selects_lowByte _ _ _, by simp [Instr.row, opcodeRows]⟩
theorem ldF (x : Reg) : Statement (.ldF x) := ⟨selects_lowByte _ _ _, by simp [Instr.row, opcodeRows]⟩
theorem ldB (x : Reg) : Statement (.ldB x) := ⟨selects_lowByte _ _ _, by simp [Instr.row, opcodeRows]⟩
theorem storeRegs (x : Reg) : Statement (.storeRegs x) := ⟨selects_lowByte _ _ _, by simp [Instr.row, opcodeRows]⟩
theorem loadRegs (x : Reg) : Statement (.loadRegs x) := ⟨selects_lowByte _ _ _, by simp [Instr.row, opcodeRows]⟩

end EncodesItsRow

end Sys2Proof.Laws
end

