-- ==== Sys2Proof/Laws/Ports.lean ====
section
/-! SUPPORT. The loader port realises `LoadImage` (spec 10_state.md R31, R33), and has no edge outside its window. -/

namespace Sys2Proof.Machine

variable {s : State}

/-- One edge of the loader: it writes a byte, and the keys are sampled. -/
def PortsIn.load (keys : BitVec 16) (a : Nat) (b : Byte) : PortsIn :=
  { reset := false, ldWe := true, ldAddr := BitVec.ofNat 12 a, ldData := b, keys := keys, step := false, rnd := 0#8,
    tick := false }

/-- The edges at which the loader writes consecutive bytes from `a` upward. -/
def loadEdges (keys : BitVec 16) (a : Nat) : List Byte → List PortsIn
  | [] => []
  | b :: bs => PortsIn.load keys a b :: loadEdges keys (a + 1) bs

/-- Outside its window, or below 0x200, the loader has no edge. -/
theorem clockEdges_of_not_loaderOk (p : PortsIn) (ps : List PortsIn) (window : Bool) (h : p.loaderOk window = false) :
    s.clockEdges window (p :: ps) = none := by
  simp [State.clockEdges, h]

/-- An edge that strobes `step` or `tick` closes the window until the next `reset`. -/
theorem windowAfter_strobe (p : PortsIn) (window : Bool) (hr : p.reset = false) (h : (p.step || p.tick) = true) :
    p.windowAfter window = false := by
  cases hs : p.step <;> simp_all [PortsIn.windowAfter]

/-- The loader's edges write their bytes and nothing else but the sampled keys. -/
theorem clockEdges_loadEdges (k : BitVec 16) (bs : List Byte) (a : Nat) (ha : Config.entry ≤ a)
    (hb : a + bs.length ≤ Config.memSize) :
    (s.setKeys k).clockEdges true (loadEdges k a bs) = some ((s.storeBytes a bs).setKeys k) := by
  induction bs generalizing s a with
  | nil => rfl
  | cons b bs ih =>
    unfold Config.memSize at hb
    simp only [List.length_cons] at hb
    have hn : (PortsIn.load k a b).ldAddr.toNat = a := by simp [PortsIn.load]; omega
    have hok : (PortsIn.load k a b).loaderOk true = true := by
      rw [PortsIn.loaderOk, hn, decide_eq_true ha]; rfl
    have hedge : (s.setKeys k).clockEdge (PortsIn.load k a b) = (s.storeBytes a [b]).setKeys k := by
      have : (s.setKeys k).clockEdge (PortsIn.load k a b) =
          (s.storeBytes (PortsIn.load k a b).ldAddr.toNat [b]).setKeys k := rfl
      rw [this, hn]
    simp only [loadEdges, State.clockEdges, hok, if_true, hedge]
    exact ih (s := s.storeBytes a [b]) (a + 1) (by omega) (by unfold Config.memSize; omega)

/-- An image that fits, loaded through the port in its window, leaves what the `LoadImage` event leaves (R31, R33). -/
theorem clockEdges_loadImage (k : BitVec 16) (bs : List Byte) (h : bs.length ≤ Config.imageMax) :
    (s.setKeys k).clockEdges true (loadEdges k Config.entry bs) = some ((s.after (.loadImage bs)).setKeys k) := by
  rw [clockEdges_loadEdges k bs Config.entry (Nat.le_refl _)
    (by unfold Config.entry Config.memSize; unfold Config.imageMax at h; omega)]
  simp [State.after, State.event, State.loadImage, h, State.landed]

end Sys2Proof.Machine
end

