-- ==== Sys2Proof/Laws/Step.lean ====
section
/-! SUPPORT. What one step can do, said once, and the instructions that can end two ways. -/

namespace Sys2Proof.Machine

variable {s t : State}

/-- A fetch with both bytes inside memory reads the word at `PC` (R80). -/
theorem fetchDecode_inside (h : s.pc.toNat ≤ 0xFFE) :
    s.fetchDecode =
      match decodeWord (s.wordAt s.pc.toNat) with
      | .ok i => .instr i
      | .error _ => .illegal (s.wordAt s.pc.toNat) := by
  have h1 : ¬ Config.addrMax < s.pc.toNat := by unfold Config.addrMax; omega
  have h2 : ¬ s.pc.toNat = Config.addrMax := by unfold Config.addrMax; omega
  cases h3 : decodeWord (s.wordAt s.pc.toNat) <;> simp only [State.fetchDecode, h1, h2, h3, if_false]

/-- A fetch that yields an instruction had both bytes inside memory, and the word decodes to it. -/
theorem fetchDecode_instr {i : Instr} (h : s.fetchDecode = .instr i) :
    s.pc.toNat ≤ 0xFFE ∧ decodeWord (s.wordAt s.pc.toNat) = .ok i := by
  unfold State.fetchDecode Config.addrMax at h
  split at h
  · cases h
  · split at h
    · cases h
    · next h1 h2 =>
      refine ⟨by omega, ?_⟩
      split at h
      · next j hj => cases h; exact hj
      · cases h

/-- Everything a step can do (R80): nothing while halted, a fault of the fetch or the decode, or the instruction. -/
theorem step_cases (h : step s = .next t) :
    (s.halted = true ∧ t = s) ∨
    (s.halted = false ∧ ∃ a, s.fetchDecode = .outOfBounds a ∧ t = s.raise .outOfBounds 0x0000#16 a) ∨
    (s.halted = false ∧ ∃ w, s.fetchDecode = .illegal w ∧ t = s.raise .unknownOpcode w 0) ∨
    (s.halted = false ∧ ∃ i, s.fetchDecode = .instr i ∧ exec i s = .next t) := by
  unfold step at h
  cases hh : s.halted with
  | true => simp only [hh, if_true] at h; cases h; exact .inl ⟨rfl, rfl⟩
  | false =>
    simp only [hh, Bool.false_eq_true, if_false] at h
    cases hf : s.fetchDecode with
    | outOfBounds a => rw [hf] at h; cases h; exact .inr (.inl ⟨rfl, a, rfl, rfl⟩)
    | illegal w => rw [hf] at h; cases h; exact .inr (.inr (.inl ⟨rfl, w, rfl, rfl⟩))
    | instr i => rw [hf] at h; exact .inr (.inr (.inr ⟨rfl, i, rfl, h⟩))

/-- The placed word is the one the next step fetches, from any state (R42). -/
theorem wordAt_placeWord (s : State) (w : Word16) : (s.placeWord w).wordAt s.pc.toNat = w := by
  simp [State.placeWord, State.wordAt, State.readByte, Memory.read_writeList]

theorem pc_fetchReady (s : State) : s.fetchReady.pc.toNat ≤ 0xFFE ∧ s.fetchReady.halted = false := by
  unfold State.fetchReady Config.addrMax Config.entry
  cases hh : s.halted with
  | true =>
    by_cases h : 0xFFF ≤ s.pc.toNat
    · simp [h, State.halted, FaultRecord.clear]
    · simp only [if_true, State.setFault_pc, h, if_false]
      exact ⟨by omega, rfl⟩
  | false =>
    by_cases h : 0xFFF ≤ s.pc.toNat
    · simp [h, hh]
    · simp only [Bool.false_eq_true, if_false, h]
      exact ⟨by omega, hh⟩

/-- `withFetchWord` does what it is for: the very next step runs the instruction the table word decodes to. -/
theorem step_withFetchWord (s : State) (nbits w : Nat) (i : Instr) (h : decodeWord (tableWord nbits w) = .ok i) :
    step (s.withFetchWord nbits w) = exec i (s.withFetchWord nbits w) := by
  have hp := pc_fetchReady s
  have hpc : (s.withFetchWord nbits w).pc = s.fetchReady.pc := rfl
  have hh : (s.withFetchWord nbits w).halted = s.fetchReady.halted := rfl
  have hw : (s.withFetchWord nbits w).wordAt (s.withFetchWord nbits w).pc.toNat = tableWord nbits w :=
    wordAt_placeWord s.fetchReady _
  have hf : (s.withFetchWord nbits w).fetchDecode = .instr i := by
    rw [fetchDecode_inside (by rw [hpc]; exact hp.1), hw, h]
  simp only [step, hh, hp.2, Bool.false_eq_true, if_false, hf, State.runFetched]

/-- An instruction that checks a range either faults on it or runs (R44). -/
theorem range_cases (base n : Nat) :
    (outOfRange base n = none ∧ (n = 0 ∨ base + n ≤ 0x1000)) ∨
      (outOfRange base n = some (max base 0x1000) ∧ 0 < n ∧ 0x1000 < base + n) := by
  cases h : outOfRange base n with
  | none => exact .inl ⟨rfl, (outOfRange_eq_none base n).mp h⟩
  | some a =>
    obtain ⟨h1, h2, rfl⟩ := (outOfRange_eq_some base n a).mp h
    exact .inr ⟨rfl, h1, h2⟩

end Sys2Proof.Machine
end

