-- ==== Sys2Proof/Tests/Slice0.lean ====
section
/-! SUPPORT. The model's own tests. Expected values are the spec's: the encodings of 30_encoding.md R63 written out bit by
bit, and the vectors of 95_test_vectors.md, whose ids stand in the comments. Then a witness for each statement's
hypotheses. -/

namespace Sys2Proof.Tests

open Sys2Proof.Machine

/-! ## Well-formedness: a term each check refuses -/

theorem test_wf_register_16 : (Operand.reg 16).wf = false := by decide
theorem test_wf_imm4_16 : (Operand.imm4 16).wf = false := by decide
theorem test_wf_imm8_256 : (Operand.imm8 256).wf = false := by decide
theorem test_wf_addr12_4096 : (Operand.addr12 4096).wf = false := by decide
theorem test_wf_last_values :
    (Operand.reg 15).wf ∧ (Operand.imm4 15).wf ∧ (Operand.imm8 255).wf ∧ (Operand.addr12 4095).wf := by decide
/-- Cells out of order, listed twice, equal to the unlisted byte, or above 0xFFF are no canonical memory. -/
theorem test_memory_wf_refuses :
    Memory.wf [(0x301, 1#8), (0x300, 1#8)] = false ∧ Memory.wf [(0x300, 1#8), (0x300, 2#8)] = false ∧
      Memory.wf [(0x300, 0#8)] = false ∧ Memory.wf [(0x000, 0xF0#8)] = false ∧ Memory.wf [(0x1000, 1#8)] = false := by
  decide

/-! ## Decoding: every constructor, its word written out from its encoding (R63) -/

theorem test_decode_family_0 :
    decodeWord 0b0000000011100000#16 = .ok .cls ∧ decodeWord 0b0000000011101110#16 = .ok .ret := by decide
theorem test_decode_addresses :
    decodeWord 0b0001001000101000#16 = .ok (.jp 0x228#12) ∧ decodeWord 0b0010101010111100#16 = .ok (.call 0xABC#12) ∧
      decodeWord 0b1010001100000000#16 = .ok (.ldI 0x300#12) ∧ decodeWord 0b1011111100000001#16 = .ok (.jpV0 0xF01#12) := by
  decide
theorem test_decode_immediates :
    decodeWord 0b0011101001111111#16 = .ok (.seImm 10 0x7F#8) ∧ decodeWord 0b0100001100101010#16 = .ok (.sneImm 3 0x2A#8) ∧
      decodeWord 0b0110101000000010#16 = .ok (.ldImm 10 0x02#8) ∧ decodeWord 0b0111000011111111#16 = .ok (.addImm 0 0xFF#8) ∧
      decodeWord 0b1100001100001111#16 = .ok (.rnd 3 0x0F#8) := by decide
theorem test_decode_families_5_9_d :
    decodeWord 0b0101101010110000#16 = .ok (.seReg 10 11) ∧ decodeWord 0b1001000100100000#16 = .ok (.sneReg 1 2) ∧
      decodeWord 0b1101000100100101#16 = .ok (.drw 1 2 5#4) := by decide
theorem test_decode_family_8 :
    decodeWord 0b1000101010110000#16 = .ok (.ldReg 10 11) ∧ decodeWord 0b1000101010110001#16 = .ok (.orReg 10 11) ∧
      decodeWord 0b1000101010110010#16 = .ok (.andReg 10 11) ∧ decodeWord 0b1000101010110011#16 = .ok (.xorReg 10 11) ∧
      decodeWord 0b1000101010110100#16 = .ok (.addReg 10 11) ∧ decodeWord 0b1000101010110101#16 = .ok (.subReg 10 11) ∧
      decodeWord 0b1000101010110110#16 = .ok (.shr 10 11) ∧ decodeWord 0b1000101010110111#16 = .ok (.subnReg 10 11) ∧
      decodeWord 0b1000101010111110#16 = .ok (.shl 10 11) := by decide
theorem test_decode_family_e :
    decodeWord 0b1110000110011110#16 = .ok (.skp 1) ∧ decodeWord 0b1110000110100001#16 = .ok (.sknp 1) := by decide
theorem test_decode_family_f :
    decodeWord 0b1111000100000111#16 = .ok (.ldVxDt 1) ∧ decodeWord 0b1111000000001010#16 = .ok (.ldVxK 0) ∧
      decodeWord 0b1111001000010101#16 = .ok (.ldDtVx 2) ∧ decodeWord 0b1111001000011000#16 = .ok (.ldStVx 2) ∧
      decodeWord 0b1111001000011110#16 = .ok (.addI 2) ∧ decodeWord 0b1111000100101001#16 = .ok (.ldF 1) ∧
      decodeWord 0b1111000000110011#16 = .ok (.ldB 0) ∧ decodeWord 0b1111001001010101#16 = .ok (.storeRegs 2) ∧
      decodeWord 0b1111111101100101#16 = .ok (.loadRegs 15) := by decide
/-- Vectors E13 to E18. -/
theorem test_decode_illegal :
    [0x0000#16, 0x00E1#16, 0x00EF#16, 0x0123#16, 0x0EE0#16, 0x5AB1#16, 0x900F#16, 0x8AB8#16, 0x8ABF#16, 0xE19F#16,
      0xE1A2#16, 0xF108#16, 0xF175#16, 0xF1FF#16].all (fun w => decodeWord w == .error (.unknownOpcode w)) := by decide
theorem test_decode_bytes_big_endian :
    decode [0x12#8, 0x28#8, 0xFF#8] = .ok (.jp 0x228#12, [0xFF#8]) ∧ decode [0x12#8] = .error .truncated := by decide
theorem test_decodeTableWord : decodeTableWord 16 0x8AB4 = some (.addReg 10 11) ∧ decodeTableWord 16 0x8AB8 = none := by
  decide

/-! ## One step on a small state -/

/-- The state an outcome holds. -/
def stateOf : Host.Outcome State Fault Refusal → State
  | .next s => s
  | _ => State.reset

/-- One step of the instruction word `w`, from the reset state changed by `f`. -/
def one (w : Nat) (f : State → State) : State := stateOf (step ((f State.reset).withFetchWord 16 w))

/-- A general register's value after `one`. -/
def oneV (w : Nat) (x : Reg) (f : State → State) : Byte := (one w f).getV x

/-- The named quirk set. -/
def quirk (q : Config.Quirks) (s : State) : State := { s with quirks := q }

/-- Memory bytes placed for a test. -/
def mem (a : Nat) (bs : List Byte) (s : State) : State := s.storeBytes a bs

/-- The top six rows of the framebuffer; bit `x` of a row is column `x`. -/
def topRows (s : State) : List (BitVec 64) := s.fb.toList.take 6

/-! ### Control transfer: J1, J5 to J10, J13 to J22 -/

theorem test_jp : (one 0x1228 id).pc = 0x228#16 := by decide
theorem test_call : let t := one 0x220C (·.setPc 0x204#16);
    t.getStack 0 = 0x206#16 ∧ t.sp = 1 ∧ t.pc = 0x20C#16 := by decide
theorem test_call_last_entry : let t := one 0x2400 (fun s => { s.setPc 0x300#16 with sp := 15 });
    t.getStack 15 = 0x302#16 ∧ t.sp = 16 ∧ t.pc = 0x400#16 := by decide
theorem test_call_overflow : let t := one 0x2400 (fun s => { s.setPc 0x300#16 with sp := 16 });
    t.fault = ⟨.stackOverflow, 0x300#16, 0x2400#16, 0#17⟩ ∧ t.sp = 16 ∧ t.pc = 0x300#16 := by decide
theorem test_ret : let t := one 0x00EE (fun s => { s with sp := 1, stack := s.stack.set 0 0x206#16 });
    t.sp = 0 ∧ t.pc = 0x206#16 ∧ t.getStack 0 = 0x206#16 := by decide
theorem test_ret_underflow : (one 0x00EE id).fault = ⟨.stackUnderflow, 0x200#16, 0x00EE#16, 0#17⟩ := by decide
theorem test_jpV0 : (one 0xB300 (·.setV 0 0x04#8)).pc = 0x304#16 ∧ (one 0xBF00 (·.setV 0 0xFF#8)).pc = 0xFFF#16 := by decide
theorem test_jpV0_out_of_range : let t := one 0xBF01 (·.setV 0 0xFF#8);
    t.fault = ⟨.outOfBounds, 0x200#16, 0xBF01#16, 0x1000#17⟩ ∧ t.pc = 0x200#16 := by decide
theorem test_seImm : (one 0x332A (·.setV 3 0x2A#8)).pc = 0x204#16 ∧ (one 0x332B (·.setV 3 0x2A#8)).pc = 0x202#16 := by decide
theorem test_sneImm : (one 0x432A (·.setV 3 0x2A#8)).pc = 0x202#16 ∧ (one 0x432B (·.setV 3 0x2A#8)).pc = 0x204#16 := by decide
theorem test_seReg : (one 0x5120 fun s => (s.setV 1 7#8).setV 2 7#8).pc = 0x204#16 ∧
    (one 0x5120 fun s => (s.setV 1 7#8).setV 2 8#8).pc = 0x202#16 := by decide
theorem test_sneReg : (one 0x9120 fun s => (s.setV 1 7#8).setV 2 8#8).pc = 0x204#16 ∧ (one 0x9330 id).pc = 0x202#16 := by decide

/-! ### Registers, arithmetic, logic: A1 to A43 -/

theorem test_ldImm : oneV 0x6A02 10 id = 0x02#8 ∧ oneV 0x6FFF 15 id = 0xFF#8 := by decide
theorem test_ldReg : oneV 0x8120 1 (·.setV 2 0x5C#8) = 0x5C#8 := by decide
theorem test_addImm_no_flag : let t := one 0x7002 (·.setV 0 0xFF#8);
    t.getV 0 = 0x01#8 ∧ t.getV 15 = 0x00#8 ∧ t.pc = 0x202#16 := by decide
theorem test_orReg : let t := one 0x8121 fun s => ((s.setV 1 0xF0#8).setV 2 0x0F#8).setV 15 1#8;
    t.getV 1 = 0xFF#8 ∧ t.getV 15 = 1#8 := by decide
theorem test_orReg_quirk :
    oneV 0x8F11 15 (fun s => quirk ⟨false, false, true, false⟩ ((s.setV 15 0x0F#8).setV 1 0xF0#8)) = 0x00#8 := by decide
theorem test_andReg : oneV 0x8122 1 (fun s => (s.setV 1 0xF0#8).setV 2 0x3C#8) = 0x30#8 := by decide
theorem test_xorReg : oneV 0x8123 1 (fun s => (s.setV 1 0xF0#8).setV 2 0x3C#8) = 0xCC#8 := by decide
theorem test_addReg : let t := one 0x8124 fun s => (s.setV 1 0xFF#8).setV 2 0xFF#8;
    t.getV 1 = 0xFE#8 ∧ t.getV 15 = 1#8 ∧ t.pc = 0x202#16 := by decide
theorem test_addReg_vf_destination : oneV 0x8F14 15 (fun s => (s.setV 15 0x03#8).setV 1 0x04#8) = 0#8 := by decide
theorem test_subReg : let t := one 0x8125 fun s => (s.setV 1 3#8).setV 2 5#8;
    t.getV 1 = 0xFE#8 ∧ t.getV 15 = 0#8 := by decide
theorem test_subReg_equal : let t := one 0x8125 fun s => (s.setV 1 7#8).setV 2 7#8;
    t.getV 1 = 0x00#8 ∧ t.getV 15 = 1#8 := by decide
theorem test_subnReg : let t := one 0x8127 fun s => (s.setV 1 3#8).setV 2 5#8;
    t.getV 1 = 0x02#8 ∧ t.getV 15 = 1#8 := by decide
theorem test_shr : let t := one 0x8126 fun s => s.setV 1 0xFF#8;
    t.getV 1 = 0x7F#8 ∧ t.getV 15 = 1#8 ∧ t.getV 2 = 0#8 := by decide
theorem test_shr_quirk : let t := one 0x8126 fun s => quirk ⟨false, false, false, true⟩ ((s.setV 1 0xFF#8).setV 2 0x81#8);
    t.getV 1 = 0x40#8 ∧ t.getV 15 = 1#8 ∧ t.getV 2 = 0x81#8 := by decide
theorem test_shl : let t := one 0x810E fun s => s.setV 1 0x81#8;
    t.getV 1 = 0x02#8 ∧ t.getV 15 = 1#8 := by decide
theorem test_shl_quirk : let t := one 0x812E fun s => quirk ⟨false, false, false, true⟩ (s.setV 2 0xC0#8);
    t.getV 1 = 0x80#8 ∧ t.getV 15 = 1#8 ∧ t.getV 2 = 0xC0#8 := by decide
theorem test_rnd_masked : let t := stateOf ((State.reset.withFetchWord 16 0xC30F).stepWith 0xA7#8);
    t.getV 3 = 0x07#8 ∧ t.pc = 0x202#16 := by decide

/-! ### Index and memory: M3 to M7, M9, M16, M18, M19, M22, M24, M28 -/

theorem test_ldI : (one 0xA300 id).i = 0x0300#16 := by decide
theorem test_addI : (one 0xF21E fun s => (s.setI 0x0FFF#16).setV 2 1#8).i = 0x1000#16 ∧
    (one 0xF21E fun s => (s.setI 0xFFFF#16).setV 2 2#8).i = 0x0001#16 := by decide
theorem test_ldF : (one 0xF129 (·.setV 1 0x05#8)).i = 0x0019#16 ∧ (one 0xF129 (·.setV 1 0xAF#8)).i = 0x004B#16 := by decide
theorem test_ldB : let t := one 0xF033 fun s => (s.setV 0 0xFE#8).setI 0x300#16;
    [t.readByte 0x300, t.readByte 0x301, t.readByte 0x302] = [2#8, 5#8, 4#8] ∧ t.pc = 0x202#16 := by decide
theorem test_ldB_out_of_range : let t := one 0xF033 fun s => s.setI 0xFFE#16;
    t.fault = ⟨.outOfBounds, 0x200#16, 0xF033#16, 0x1000#17⟩ ∧ t.readByte 0xFFE = 0#8 := by decide
theorem test_storeRegs : let t := one 0xF255 (fun s => quirk ⟨true, false, false, false⟩
        ((((s.setV 0 0x11#8).setV 1 0x22#8).setV 2 0x33#8).setI 0x400#16));
    [t.readByte 0x400, t.readByte 0x401, t.readByte 0x402, t.readByte 0x403] = [0x11#8, 0x22#8, 0x33#8, 0#8] ∧
      t.i = 0x0403#16 := by decide
theorem test_storeRegs_bounds : (one 0xFF55 (·.setI 0xFF1#16)).fault = ⟨.outOfBounds, 0x200#16, 0xFF55#16, 0x1000#17⟩ ∧
    (one 0xFE55 (·.setI 0xFF1#16)).fault = FaultRecord.clear := by decide
theorem test_loadRegs : let t := one 0xF265 fun s => mem 0x300 [2#8, 5#8, 4#8] ((s.setI 0x300#16).setV 3 0x99#8);
    [t.getV 0, t.getV 1, t.getV 2, t.getV 3] = [2#8, 5#8, 4#8, 0x99#8] ∧ t.i = 0x0300#16 := by decide
theorem test_loadRegs_quirk : let t := one 0xFF65 fun s => quirk ⟨true, false, false, false⟩ (s.setI 0xFF0#16);
    t.i = 0x1000#16 ∧ t.fault = FaultRecord.clear := by decide

/-! ### Display: B1, B2, B4, B9, B14, B18 -/

theorem test_cls : (one 0x00E0 fun s => s.setFb (Vector.replicate 32 0xFFFF#64)).fb = Vector.replicate 32 0#64 := by decide
theorem test_drw_glyph_0 : topRows (one 0xD015 id) = [0xF#64, 0x9#64, 0x9#64, 0x9#64, 0xF#64, 0x0#64] := by decide +kernel
theorem test_drw_wrap :
    topRows (one 0xD011 fun s =>
      quirk ⟨false, true, false, false⟩ (mem 0x300 [0xFF#8] ((s.setI 0x300#16).setV 0 0x3C#8))) =
      [0xF00000000000000F#64, 0#64, 0#64, 0#64, 0#64, 0#64] ∧
    topRows (one 0xD011 fun s => mem 0x300 [0xFF#8] ((s.setI 0x300#16).setV 0 0x3C#8)) =
      [0xF000000000000000#64, 0#64, 0#64, 0#64, 0#64, 0#64] := by decide +kernel

/-! ### Keypad and timers: K1 to K7, T3, T5 to T7 -/

theorem test_skp : (one 0xE29E fun s => (s.setV 2 0x14#8).setKeys 0x0010#16).pc = 0x204#16 ∧
    (one 0xE29E (·.setV 2 0x04#8)).pc = 0x202#16 := by decide
theorem test_sknp : (one 0xE2A1 fun s => (s.setV 2 0x04#8).setKeys 0x0010#16).pc = 0x202#16 ∧
    (one 0xE2A1 (·.setV 2 0x04#8)).pc = 0x204#16 := by decide
theorem test_ldVxK_waits : let t := one 0xF20A (·.setV 2 0x33#8);
    t.pc = 0x200#16 ∧ t.getV 2 = 0x33#8 := by decide
theorem test_ldVxK_lowest : let t := one 0xF20A (·.setKeys 0x0090#16);
    t.getV 2 = 0x04#8 ∧ t.pc = 0x202#16 := by decide
theorem test_ldVxDt : oneV 0xF107 1 (·.setDt 0x3C#8) = 0x3C#8 := by decide
theorem test_ldDtVx : (one 0xF015 (·.setV 0 0x03#8)).dt = 0x03#8 := by decide
theorem test_ldStVx : (one 0xF018 (·.setV 0 0x1E#8)).soundOn = true := by decide
theorem test_tick : let t := ((State.reset.setDt 0xFF#8).setSt 1#8).tick;
    t.dt = 0xFE#8 ∧ t.st = 0#8 ∧ t.tick.st = 0#8 := by decide

/-! ### Faults, reset, boot: X1, X6 to X11, X13, Z3 to Z5 -/

theorem test_empty_memory_faults :
    (stateOf (step State.reset)).fault = ⟨.unknownOpcode, 0x200#16, 0x0000#16, 0#17⟩ := by decide
theorem test_fetch_bounds :
    (stateOf (step (State.reset.setPc 0xFFF#16))).fault = ⟨.outOfBounds, 0xFFF#16, 0#16, 0x1000#17⟩ ∧
      (stateOf (step (State.reset.setPc 0x1002#16))).fault = ⟨.outOfBounds, 0x1002#16, 0#16, 0x1002#17⟩ := by decide
theorem test_last_legal_fetch : let t := one 0x6A02 (·.setPc 0xFFE#16);
    t.getV 10 = 2#8 ∧ t.pc = 0x1000#16 ∧ t.fault = FaultRecord.clear := by decide
theorem test_halted_frozen : let s := (stateOf (step State.reset)).setDt 9#8;
    stateOf (step s) = s ∧ s.tick = s ∧ (s.after (.setKeys 0xFFFF#16)).keys = 0xFFFF#16 ∧
      (s.after .reset).fault = FaultRecord.clear := by decide
theorem test_reset_memory : let s := State.reset;
    [s.readByte 0x000, s.readByte 0x001, s.readByte 0x04B, s.readByte 0x04F, s.readByte 0x050, s.readByte 0xFFF] =
      [0xF0#8, 0x90#8, 0xF0#8, 0x80#8, 0#8, 0#8] := by decide
/-- Program P1 of the spec, loaded and stepped as the host would. -/
theorem test_program_p1 : let s := State.reset.after (.loadImage [0x6A#8, 0x02#8, 0x6B#8, 0x03#8, 0x8A#8, 0xB4#8]);
    let t := s.afterAll [.step 0#8, .step 0#8, .step 0#8];
    t.getV 10 = 5#8 ∧ t.getV 11 = 3#8 ∧ t.getV 15 = 0#8 ∧ t.pc = 0x206#16 := by decide
theorem test_legal_runs : legalRun [.reset, .loadImage [], .setKeys 0#16, .step 0#8, .tick] = true ∧
    legalRun [.reset, .step 0#8, .loadImage []] = false ∧ legalRun [.step 0#8] = false := by decide
/-- R34: both strobes together are a step, then a tick. -/
theorem test_ports_step_then_tick :
    ((State.reset.setV 0 3#8).withFetchWord 16 0xF015).clockEdge ⟨false, false, 0#12, 0#8, 0#16, true, 0#8, true⟩ =
      (((State.reset.setV 0 3#8).withFetchWord 16 0xF015).after (.step 0#8)).after .tick := by decide

/-! ## Witnesses: for each statement with hypotheses, a state and operands that meet them, clause by clause at the edges
of their ranges -/

/-- The reset state halted by its first step. -/
def haltedState : State := stateOf (step State.reset)

/-- The reset state with one instruction word at `PC`. -/
def running (w : Nat) : State := State.reset.withFetchWord 16 w

theorem witness_EncodeOfDecodeIsTheWord : decodeWord 0x8AB4#16 = .ok (.addReg 10 11) := by decide
theorem witness_DecoderReadsTheOpcodeTable :
    decodeWord 0x8AB4#16 = .ok (.addReg 10 11) ∧ (Instr.addReg 10 11).row ∈ opcodeRows ∧
      (Instr.addReg 10 11).row.selects 0x8AB4#16 = true := by decide
theorem witness_StepRunsTheDecodedInstruction :
    let s := (State.reset.setPc 0xFFE#16).withFetchWord 16 0x6A02
    s.halted = false ∧ s.pc.toNat ≤ 0xFFE ∧
      decode [s.readByte s.pc.toNat, s.readByte (s.pc.toNat + 1)] = .ok (.ldImm 10 2#8, []) := by decide
theorem witness_StepCycleOfTheSpec_fetch :
    haltedState.halted = true ∧ (State.reset.setPc 0x1000#16).halted = false ∧ 0xFFF < (State.reset.setPc 0x1000#16).pc.toNat ∧
      (State.reset.setPc 0xFFF#16).pc.toNat = 0xFFF ∧ (State.reset.setPc 0xFFE#16).pc.toNat < 0xFFF := by decide
theorem witness_StepCycleOfTheSpec_word :
    (0x6A02#16 : Word16).toNat = ((running 0x6A02).readByte 0x200).toNat * 256 + ((running 0x6A02).readByte 0x201).toNat ∧
      decodeWord 0x6A02#16 = .ok (.ldImm 10 2#8) ∧ decodeWord 0x0000#16 = .error (.unknownOpcode 0x0000#16) := by decide
theorem witness_StepCycleOfTheSpec_timers :
    (stateOf (step ((running 0xF015).setV 0 3#8))).dt ≠ (running 0xF015).dt ∧
      (stateOf (step ((running 0xF018).setV 0 3#8))).st ≠ (running 0xF018).st := by decide
theorem witness_SequentialInstructionsAdvanceByTwo :
    sequential (.ldB 0) = true ∧ State.reset.halted = false ∧ (stateOf (exec (.ldB 0) State.reset)).halted = false := by decide
theorem witness_AFaultingStepChangesOnlyTheRecord :
    State.reset.halted = false ∧ step State.reset = .next haltedState ∧ haltedState.halted = true := ⟨rfl, rfl, by decide⟩
theorem witness_OnlyTheSevenInstructionsRaise :
    (∃ t, exec .ret State.reset = .next t ∧ t.halted = true) ∧
    (∃ t, exec (.call 0x400#12) { State.reset with sp := 16 } = .next t ∧ t.halted = true) ∧
    (∃ t, exec (.drw 0 0 1#4) (State.reset.setI 0x1000#16) = .next t ∧ t.halted = true) := ⟨⟨_, rfl, rfl⟩, ⟨_, rfl, rfl⟩, ⟨_, rfl, rfl⟩⟩
theorem witness_HaltedCoreOnlyTakesKeys :
    haltedState.halted = true ∧ legalFrom false [.setKeys 1#16, .step 0#8, .tick] = true ∧
      Event.reset ∉ [Event.setKeys 1#16, .step 0#8, .tick] := by decide
theorem witness_InstructionsWriteOnlyTheirColumns :
    (∃ t, exec .cls State.reset = .next t) ∧ ∃ t, exec .ret State.reset = .next t := ⟨⟨_, rfl⟩, ⟨_, rfl⟩⟩
theorem witness_NoStepDependsOnTheSoundTimer : step State.reset = .next haltedState := rfl
/-- One valid entry, kept, and every stale entry changed. -/
theorem witness_NoStepDependsOnStaleStackEntries :
    let s : State := { State.reset with sp := 1 }
    (∀ j : Fin 16, j.val < s.sp.val → ((Vector.replicate 16 0x0333#16).set 0 0x0000#16)[j] = s.getStack j) ∧
      ((Vector.replicate 16 0x0333#16).set 0 0x0000#16) ≠ s.stack ∧ ∃ t, step s = .next t := ⟨by decide, by decide, _, rfl⟩
theorem witness_OnlyRandomConsumesTheStepInput :
    ∀ x nn, (running 0x6A02).fetchDecode ≠ .instr (.rnd x nn) := by
  have h : (running 0x6A02).fetchDecode = .instr (.ldImm 10 2#8) := by decide
  simp [h]
theorem witness_JumpWithOffset :
    (0xFFF#12 : Addr12).toNat + (State.reset.getV 0).toNat ≤ 0xFFF ∧
      0xFFF < (0xFFF#12 : Addr12).toNat + ((State.reset.setV 0 1#8).getV 0).toNat := by decide
theorem witness_CallPushesTheReturnAddress :
    State.reset.sp.val = (0 : Fin 16).val ∧ ({ State.reset with sp := 15 } : State).sp.val = (15 : Fin 16).val := by decide
theorem witness_ReturnLoadsTheTopEntry :
    ({ State.reset with sp := 1 } : State).sp.val = (0 : Fin 16).val + 1 ∧
      ({ State.reset with sp := 16 } : State).sp.val = (15 : Fin 16).val + 1 := by decide
theorem witness_StackFaultsAtTheLimits :
    State.reset.halted = false ∧ State.reset.sp.val = 0 ∧ ({ State.reset with sp := 16 } : State).halted = false ∧
      ({ State.reset with sp := 16 } : State).sp.val = 16 := by decide
theorem witness_CallThenReturnRoundTrip :
    State.reset.sp.val = (0 : Fin 16).val ∧ ({ State.reset with sp := 15 } : State).sp.val = (15 : Fin 16).val := by decide
theorem witness_NestedCallsCountDepth :
    State.reset.sp.val + (List.replicate 16 0x300#12).length = 16 ∧ State.reset.sp.val + [0x300#12].length ≤ 16 := by decide
theorem witness_BitwiseLogicAndItsQuirk :
    (Instr.xorReg 15 1 = .orReg 15 1 ∧ (0#8 : Byte) = State.reset.getV 15 ||| State.reset.getV 1) ∨
      (Instr.xorReg 15 1 = .andReg 15 1 ∧ (0#8 : Byte) = State.reset.getV 15 &&& State.reset.getV 1) ∨
      (Instr.xorReg 15 1 = .xorReg 15 1 ∧ (0#8 : Byte) = State.reset.getV 15 ^^^ State.reset.getV 1) := by decide
theorem witness_BitwiseLogicAndItsQuirk_parameter :
    State.reset.quirks.logicResetsVf = false ∧ (quirk ⟨false, false, true, false⟩ State.reset).quirks.logicResetsVf = true ∧
      (1 : Reg) ≠ flagReg := by decide
theorem witness_ShiftsSetTheBitShiftedOut :
    (0x81#8 : Byte) = (let s := State.reset.setV 1 0x81#8; if s.quirks.shiftUsesVy = true then s.getV 2 else s.getV 1) := by
  decide
theorem witness_StoreDecimalDigits : (State.reset.setI 0xFFD#16).effAddr 2 ≤ 0xFFF := by decide
theorem witness_StoreRegisterBlock :
    (State.reset.setI 0xFF0#16).effAddr (15 : Reg).val ≤ 0xFFF ∧ (State.reset.setI 0xFFF#16).effAddr (0 : Reg).val ≤ 0xFFF := by
  decide
theorem witness_LoadRegisterBlock : (State.reset.setI 0xFF0#16).effAddr (15 : Reg).val ≤ 0xFFF ∧ (15 : Reg) ≤ 15 := by decide
theorem witness_BoundsTableOfTheSpec_fetch_and_jump :
    State.reset.halted = false ∧ 0xFFE < (State.reset.setPc 0xFFF#16).pc.toNat ∧ (State.reset.setPc 0xFFE#16).pc.toNat ≤ 0xFFE ∧
      (0xF01#12 : Addr12).toNat + ((State.reset.setV 0 0xFF#8).getV 0).toNat > 0xFFF ∧
      (0xF00#12 : Addr12).toNat + ((State.reset.setV 0 0xFF#8).getV 0).toNat ≤ 0xFFF := by decide
theorem witness_BoundsTableOfTheSpec_draw :
    (0x1#4 : Nibble).toNat > 0 ∧ (State.reset.setI 0x1000#16).i.toNat + (0x1#4 : Nibble).toNat - 1 > 0xFFF ∧
      ¬ ((0x1#4 : Nibble).toNat > 0 ∧ (State.reset.setI 0xFFF#16).i.toNat + (0x1#4 : Nibble).toNat - 1 > 0xFFF) ∧
      ¬ ((0x0#4 : Nibble).toNat > 0 ∧ (State.reset.setI 0xFFFF#16).i.toNat + (0x0#4 : Nibble).toNat - 1 > 0xFFF) := by decide
theorem witness_BoundsTableOfTheSpec_blocks :
    (State.reset.setI 0xFFE#16).i.toNat + 2 > 0xFFF ∧ (State.reset.setI 0xFFD#16).i.toNat + 2 ≤ 0xFFF ∧
      (State.reset.setI 0xFF1#16).i.toNat + (15 : Reg).val > 0xFFF ∧ (State.reset.setI 0xFF0#16).i.toNat + (15 : Reg).val ≤ 0xFFF := by
  decide
theorem witness_FetchSeesTheStore :
    let s := (State.reset.setV 0 0x6A#8).setI 0xFFE#16
    1 ≤ (1 : Reg).val ∧ s.effAddr (1 : Reg).val ≤ 0xFFF ∧ s.halted = false ∧
      decodeWord (wordOfBytes (s.getV 0) (s.getV 1)) = .ok (.ldImm 10 0#8) := by decide
/-- No row at any `I`, and the last byte of memory as the last row. -/
theorem witness_DrawFlipsTheCoveredPixels :
    (0x0#4 : Nibble).toNat = 0 ∧ (State.reset.setI 0xFF1#16).i.toNat + (0xF#4 : Nibble).toNat ≤ 0x1000 := by decide
/-- Glyph 0 at the top left covers the corner and leaves (1, 1) out. -/
theorem witness_DrawFlipsTheCoveredPixels_pixels :
    State.reset.Covers 0 0 5#4 (0, 0) ∧ ¬ State.reset.Covers 0 0 5#4 (9, 0) := by
  refine ⟨⟨0, 0, by decide, by decide, by decide, by decide⟩, ?_⟩
  rintro ⟨r, c, _, hc, _, h⟩
  simp only [show State.reset.quirks.drawWrap = false from rfl, show State.reset.getV 0 = 0#8 from rfl] at h
  simp at h
  omega
theorem witness_DrawReportsCollision :
    (State.reset.setI 0xFF1#16).i.toNat + (0xF#4 : Nibble).toNat ≤ 0x1000 ∧ ∀ p, State.reset.pixel p = false := by
  exact ⟨by decide, FrameBuffer.pixel_blank⟩
/-- After glyph 0 has been drawn once, drawing it again meets a pixel that is on. -/
theorem witness_DrawReportsCollision_hit :
    (one 0xD015 id).Covers 0 1 5#4 (0, 0) ∧ (one 0xD015 id).pixel (0, 0) = true := by
  exact ⟨⟨0, 0, by decide, by decide, by decide, by decide⟩, by decide⟩
theorem witness_DrawTwiceRestoresTheScreen :
    (0 : Reg) ≠ flagReg ∧ (1 : Reg) ≠ flagReg ∧ State.reset.i.toNat + (5#4 : Nibble).toNat ≤ 0x1000 := by decide
/-- Key 4 down: `V[X]` = 0x14 names it, 0x15 names a key that is up. -/
theorem witness_KeyIndexIsTheLowNibble : let s := State.reset.setKeys 0x0010#16;
    s.keys.getLsbD ((0x14#8 : Byte) &&& 0x0F#8).toNat = true ∧ s.keys.getLsbD ((0x15#8 : Byte) &&& 0x0F#8).toNat = false := by
  decide
theorem witness_KeySkipsTestTheLatch : (4 : Key).val = ((State.reset.setV 2 0x14#8).getV 2).toNat % 16 := by decide
theorem witness_WaitForKey :
    (∀ k : Key, State.reset.keys.getLsbD k.val = false) ∧ (State.reset.setKeys 0x8000#16).keys.getLsbD (15 : Key).val = true ∧
      (∀ j : Key, j < 15 → (State.reset.setKeys 0x8000#16).keys.getLsbD j.val = false) := by decide
theorem witness_DelayTimerReadAndSet : State.reset.halted = false := by decide
theorem witness_TickCountsBothTimersDown : haltedState.halted = true ∧ State.reset.halted = false := by decide
theorem witness_TimersAreMonotone : ((State.reset.setDt 3#8).setSt 1#8).halted = false := by decide
/-- The three places where the level changes. -/
theorem witness_SoundLevelChangesOnlyAtThree :
    (((running 0xF018).setV 0 1#8).after (.step 0#8)).soundOn ≠ ((running 0xF018).setV 0 1#8).soundOn ∧
      ((State.reset.setSt 1#8).after .tick).soundOn ≠ (State.reset.setSt 1#8).soundOn ∧
      ((State.reset.setSt 1#8).after .reset).soundOn ≠ (State.reset.setSt 1#8).soundOn := by decide
theorem witness_ResetValuesOfTheSpec : 0x050 ≤ 0x050 ∧ 0x050 ≤ 0xFFF := by decide
/-- The largest image, and one byte more. -/
theorem witness_LoadImagePlacesTheBytesOrRefuses :
    (List.replicate 3584 0#8 : List Byte).length ≤ 3584 ∧ 3584 < (List.replicate 3585 0#8 : List Byte).length := by
  rw [List.length_replicate, List.length_replicate]; omega
theorem witness_BothStrobesAreStepThenTick :
    let p : PortsIn := ⟨false, false, 0#12, 0#8, 0#16, true, 0#8, true⟩
    p.reset = false ∧ p.ldWe = false ∧ p.step = true ∧ p.tick = true := by decide
theorem witness_JumpToItselfIsAFixedPoint :
    (running 0x1200).halted = false ∧ (0x200#12 : Addr12).toNat ≤ 0xFFE ∧ (running 0x1200).pc.toNat = (0x200#12 : Addr12).toNat ∧
      (running 0x1200).wordAt (running 0x1200).pc.toNat = encode (.jp 0x200#12) := by decide
/-- A state with a valid return address, a cell of memory and `PC` past a skip at the end, and the step it takes. -/
theorem witness_EveryStepKeepsTheInvariant :
    let s : State := { State.reset with sp := 1, pc := 0x1002#16, mem := [(0x300, 1#8)], stack := Vector.replicate 16 0x1000#16 }
    s.Inv ∧ ∃ t, step s = .next t := by
  exact ⟨⟨by decide, by unfold State.StackOk; decide, by decide⟩, _, rfl⟩
theorem witness_EveryReachableStateMeetsTheInvariant :
    legalRun [.reset, .loadImage [0x12#8, 0x00#8], .setKeys 1#16, .step 0#8, .tick, .reset, .loadImage []] = true := by decide

/-! ## The loader port (R33): inside its window, closed by a strobe, and below 0x200 -/

/-- A `reset` edge, and an edge that strobes `step`. -/
def resetEdge : PortsIn := ⟨true, false, 0#12, 0#8, 0#16, false, 0#8, false⟩
def stepEdge : PortsIn := ⟨false, false, 0#12, 0#8, 0#16, true, 0#8, false⟩

theorem test_ports_load_in_window :
    (State.reset.portRun (resetEdge :: loadEdges 0#16 0x200 [0x6A#8, 0x02#8] ++ [stepEdge])).map (·.getV 10) = some 2#8 := by
  decide
theorem test_ports_no_load_elsewhere :
    State.reset.portRun (resetEdge :: stepEdge :: loadEdges 0#16 0x200 [0x6A#8]) = none ∧
      State.reset.portRun (resetEdge :: loadEdges 0#16 0x1FF [0x6A#8]) = none ∧
      State.reset.portRun (loadEdges 0#16 0x200 [0x6A#8]) = none := by decide

end Sys2Proof.Tests
end

section
/-! PROOFS. The bounds table (spec 20_memory.md R44): how each access that can leave memory ends, by its range. -/

namespace Sys2Proof.Machine

variable {s : State}

/-! ## How an instruction with a range check ends -/

theorem exec_jpV0_of_above {nnn : Addr12} (h : 0xFFF < s.offsetTarget nnn) :
    exec (.jpV0 nnn) s = .next (s.raise .outOfBounds (encode (.jpV0 nnn)) (s.offsetTarget nnn)) :=
  if_pos h

theorem exec_jpV0_of_inside {nnn : Addr12} (h : s.offsetTarget nnn ≤ 0xFFF) :
    exec (.jpV0 nnn) s = .next (s.setPc (BitVec.ofNat 16 (s.offsetTarget nnn))) :=
  if_neg (Nat.not_lt.mpr h)

theorem exec_drw_of_outOfRange {x y : Reg} {n : Nibble} {a : Nat} (h : outOfRange s.i.toNat n.toNat = some a) :
    exec (.drw x y n) s = .next (s.raise .outOfBounds (encode (.drw x y n)) a) := by
  simp only [exec, execDrw, h]

theorem exec_drw_of_inRange {x y : Reg} {n : Nibble} (h : outOfRange s.i.toNat n.toNat = none) :
    exec (.drw x y n) s = .next (((s.setFb (blit s.fb (s.spritePixels x y n)).fb).setV flagReg
      (collisionFlag (blit s.fb (s.spritePixels x y n)).hit)).advance) := by
  simp only [exec, execDrw, h]

theorem exec_ldB_of_outOfRange {x : Reg} {a : Nat} (h : outOfRange s.i.toNat 3 = some a) :
    exec (.ldB x) s = .next (s.raise .outOfBounds (encode (.ldB x)) a) := by
  simp only [exec, execLdB, h]

theorem exec_ldB_of_inRange {x : Reg} (h : outOfRange s.i.toNat 3 = none) :
    exec (.ldB x) s = .next (s.storeBytes (s.effAddr 0) (bcdDigits (s.getV x))).advance := by
  simp only [exec, execLdB, h]

theorem exec_storeRegs_of_outOfRange {x : Reg} {a : Nat} (h : outOfRange s.i.toNat (x.val + 1) = some a) :
    exec (.storeRegs x) s = .next (s.raise .outOfBounds (encode (.storeRegs x)) a) := by
  simp only [exec, execStoreRegs, h]

theorem exec_storeRegs_of_inRange {x : Reg} (h : outOfRange s.i.toNat (x.val + 1) = none) :
    exec (.storeRegs x) s = .next ((s.storeBytes (s.effAddr 0) (s.regBlock x)).bumpI x).advance := by
  simp only [exec, execStoreRegs, h]

theorem exec_loadRegs_of_outOfRange {x : Reg} {a : Nat} (h : outOfRange s.i.toNat (x.val + 1) = some a) :
    exec (.loadRegs x) s = .next (s.raise .outOfBounds (encode (.loadRegs x)) a) := by
  simp only [exec, execLoadRegs, h]

theorem exec_loadRegs_of_inRange {x : Reg} (h : outOfRange s.i.toNat (x.val + 1) = none) :
    exec (.loadRegs x) s = .next ((s.setAllV (s.loadedRegs x)).bumpI x).advance := by
  simp only [exec, execLoadRegs, h]

/-! ## The rows of R44 -/

/-- What the record of an `OutOfBounds` holds: 17 bits keep the offending address whole. -/
theorem raisesAt_of_raise {i : Instr} {word : Word16} {a : Nat}
    (h : exec i s = .next (s.raise .outOfBounds word a)) (ha : a < 131072) : RaisesAt i s a := by
  obtain ⟨hkind, -, -, haddr, -⟩ := raised_raise s .outOfBounds word a ha
  exact ⟨_, h, hkind, haddr⟩

/-- `i` transfers `n` bytes through `I` and checks them (R44): it raises at the first address of the range that lies
above 0xFFF, and leaves `FAULT` alone when there is none. -/
def ChecksRange (i : Instr) (s : State) (n : Nat) : Prop :=
  (0 < n ∧ 0x1000 < s.i.toNat + n → RaisesAt i s (max s.i.toNat 0x1000)) ∧
    (n = 0 ∨ s.i.toNat + n ≤ 0x1000 → RunsClear i s)

/-- An instruction that raises what `outOfRange` answers, and else runs clear, has its row of R44. -/
theorem checksRange_of_outOfRange {i : Instr} {n : Nat}
    (hraise : ∀ a, outOfRange s.i.toNat n = some a → exec i s = .next (s.raise .outOfBounds (encode i) a))
    (hclear : outOfRange s.i.toNat n = none → RunsClear i s) : ChecksRange i s n := by
  constructor
  · rintro ⟨hpos, hpast⟩
    have hI := s.i.isLt
    exact raisesAt_of_raise (hraise _ ((outOfRange_eq_some ..).mpr ⟨hpos, hpast, rfl⟩)) (by omega)
  · exact fun hin => hclear ((outOfRange_eq_none ..).mpr hin)

theorem drw_checksRange (x y : Reg) (n : Nibble) (s : State) : ChecksRange (.drw x y n) s n.toNat :=
  checksRange_of_outOfRange (fun _ => exec_drw_of_outOfRange) fun h => ⟨_, exec_drw_of_inRange h, rfl⟩

theorem ldB_checksRange (x : Reg) (s : State) : ChecksRange (.ldB x) s 3 :=
  checksRange_of_outOfRange (fun _ => exec_ldB_of_outOfRange) fun h => ⟨_, exec_ldB_of_inRange h, rfl⟩

theorem storeRegs_checksRange (x : Reg) (s : State) : ChecksRange (.storeRegs x) s (x.val + 1) :=
  checksRange_of_outOfRange (fun _ => exec_storeRegs_of_outOfRange)
    fun h => ⟨_, exec_storeRegs_of_inRange h, by simp⟩

theorem loadRegs_checksRange (x : Reg) (s : State) : ChecksRange (.loadRegs x) s (x.val + 1) :=
  checksRange_of_outOfRange (fun _ => exec_loadRegs_of_outOfRange)
    fun h => ⟨_, exec_loadRegs_of_inRange h, by simp⟩

theorem jpV0_raisesAt_of_above {nnn : Addr12} (h : 0xFFF < s.offsetTarget nnn) :
    RaisesAt (.jpV0 nnn) s (s.offsetTarget nnn) := by
  have hbound : s.offsetTarget nnn < 131072 := by unfold State.offsetTarget; omega
  exact raisesAt_of_raise (exec_jpV0_of_above h) hbound

theorem jpV0_runsClear_of_inside {nnn : Addr12} (h : s.offsetTarget nnn ≤ 0xFFF) : RunsClear (.jpV0 nnn) s :=
  ⟨_, exec_jpV0_of_inside h, rfl⟩

theorem jp_runsClear (nnn : Addr12) (s : State) : RunsClear (.jp nnn) s := ⟨_, rfl, rfl⟩

theorem addI_runsClear (x : Reg) (s : State) : RunsClear (.addI x) s := ⟨_, rfl, rfl⟩

theorem seReg_runsClear (x y : Reg) (s : State) : RunsClear (.seReg x y) s := ⟨_, rfl, by simp⟩

/-- A call either pushes and leaves `FAULT` alone, or raises `StackOverflow`: its target is never out of range. -/
theorem call_fault_cases {t : State} {nnn : Addr12} (h : exec (.call nnn) s = .next t) :
    t.fault = s.fault ∨ t.fault.kind = .stackOverflow := by
  rcases s.push_cases (s.pc + 2#16) with ⟨_, hpush⟩ | ⟨_, hpush⟩
  · simp only [exec, execCall, hpush, Host.Outcome.next.injEq] at h
    exact .inl (h ▸ rfl)
  · simp only [exec, execCall, hpush, Host.Outcome.next.injEq] at h
    exact .inr (h ▸ rfl)

/-! ## The fetch -/

/-- A fetch with a byte above 0xFFF names the first such byte (R44, R80). -/
theorem fetchDecode_outside (h : 0xFFE < s.pc.toNat) : s.fetchDecode = .outOfBounds (max s.pc.toNat 0x1000) := by
  unfold State.fetchDecode Config.addrMax
  by_cases hpast : 0xFFF < s.pc.toNat
  · rw [if_pos hpast, Nat.max_eq_left (by omega)]
  · have hlast : s.pc.toNat = 0xFFF := by omega
    simp [hlast]

theorem step_of_fetch_outOfBounds {a : Nat} (hs : s.halted = false) (h : s.fetchDecode = .outOfBounds a) :
    step s = .next (s.raise .outOfBounds 0x0000#16 a) := by
  simp only [step, hs, Bool.false_eq_true, if_false, h, State.runFetched]

theorem step_raises_of_fetch_outside (hs : s.halted = false) (h : 0xFFE < s.pc.toNat) :
    ∃ t, step s = .next t ∧ t.fault.kind = .outOfBounds ∧ t.fault.addr.toNat = max s.pc.toNat 0x1000 := by
  have hpc := s.pc.isLt
  obtain ⟨hkind, -, -, haddr, -⟩ := raised_raise s .outOfBounds 0x0000#16 (max s.pc.toNat 0x1000) (by omega)
  exact ⟨_, step_of_fetch_outOfBounds hs (fetchDecode_outside h), hkind, haddr⟩

theorem fetchDecode_cases_of_inside (h : s.pc.toNat ≤ 0xFFE) :
    (∃ i, s.fetchDecode = .instr i) ∨ ∃ w, s.fetchDecode = .illegal w := by
  rw [fetchDecode_inside h]
  cases decodeWord (s.wordAt s.pc.toNat) with
  | ok i => exact .inl ⟨i, rfl⟩
  | error e => exact .inr ⟨_, rfl⟩

/-- Settles O37: each row of the table is the row lemma of its access, whose range condition is the table's by
arithmetic. -/
theorem boundsTableOfTheSpec : Obligations.BoundsTableOfTheSpec := by
  unfold Obligations.BoundsTableOfTheSpec
  intro x y n nnn s hs
  obtain ⟨drwRaises, drwClear⟩ := drw_checksRange x y n s
  obtain ⟨ldBRaises, ldBClear⟩ := ldB_checksRange x s
  obtain ⟨storeRaises, storeClear⟩ := storeRegs_checksRange x s
  obtain ⟨loadRaises, loadClear⟩ := loadRegs_checksRange x s
  refine ⟨fun h => ?fetchOutside, fetchDecode_cases_of_inside, jpV0_raisesAt_of_above, jpV0_runsClear_of_inside,
    fun h => drwRaises (by omega), fun h => drwClear (by omega), fun h => ldBRaises (by omega),
    fun h => ldBClear (by omega), fun h => ⟨storeRaises (by omega), loadRaises (by omega)⟩,
    fun h => ⟨storeClear (by omega), loadClear (by omega)⟩, jp_runsClear nnn s, fun t ht => ?call, addI_runsClear x s,
    seReg_runsClear x x s⟩
  case fetchOutside =>
    obtain ⟨t, ht, hkind, haddr⟩ := step_raises_of_fetch_outside hs h
    exact ⟨t, ht, hkind, by rw [haddr]; split <;> omega⟩
  case call =>
    have hnone := s.not_halted_iff.mp hs
    rcases call_fault_cases ht with hsame | hoverflow
    · simp [hsame, hnone]
    · simp [hoverflow]

end Sys2Proof.Machine
end

section
/-! PROOFS. The word of a decoded instruction (spec 30_encoding.md R64, R68): it is the word that was decoded. -/

namespace Sys2Proof

variable {w : Word16} {i : Instr}

theorem fieldOp_eq_of_toNat {op : Nibble} (h : (fieldOp w).toNat = op.toNat) : fieldOp w = op := BitVec.eq_of_toNat_eq h

theorem encNNN_of_fieldOp {op : Nibble} (hop : fieldOp w = op) : encNNN op (fieldNNN w) = w :=
  hop ▸ encNNN_fields w

theorem encXNN_of_fields {op : Nibble} {nn : Byte} (hop : fieldOp w = op) (hnn : fieldNN w = nn) :
    encXNN op (regX w) nn = w :=
  hop ▸ hnn ▸ encXNN_fields w

theorem encXYN_of_fields {op n : Nibble} (hop : fieldOp w = op) (hn : fieldN w = n) :
    encXYN op (regX w) (regY w) n = w :=
  hop ▸ hn ▸ encXYN_fields w

theorem encode_of_decodeFamily8 (hop : fieldOp w = 0x8#4) (h : decodeFamily8 w = .ok i) : encode i = w := by
  unfold decodeFamily8 at h
  split at h <;> cases h <;> exact encXYN_of_fields hop (BitVec.eq_of_toNat_eq ‹_›)

theorem encode_of_decodeFamilyE (hop : fieldOp w = 0xE#4) (h : decodeFamilyE w = .ok i) : encode i = w := by
  unfold decodeFamilyE at h
  split_ifs at h <;> cases h <;> exact encXNN_of_fields hop ‹_›

theorem encode_of_decodeFamilyF (hop : fieldOp w = 0xF#4) (h : decodeFamilyF w = .ok i) : encode i = w := by
  unfold decodeFamilyF at h
  split_ifs at h <;> cases h <;> exact encXNN_of_fields hop ‹_›

/-- The decoder drops no bit of a legal word, so the word that a fault records is the word fetched (R68, log entry 4). -/
theorem encode_of_decodeWord (h : decodeWord w = .ok i) : encode i = w := by
  unfold decodeWord at h
  split at h
  next hop =>
    split_ifs at h with hcls hret
    · cases h; exact hcls.symm
    · cases h; exact hret.symm
  next hop => cases h; exact encNNN_of_fieldOp (fieldOp_eq_of_toNat hop)
  next hop => cases h; exact encNNN_of_fieldOp (fieldOp_eq_of_toNat hop)
  next hop => cases h; exact encXNN_of_fields (fieldOp_eq_of_toNat hop) rfl
  next hop => cases h; exact encXNN_of_fields (fieldOp_eq_of_toNat hop) rfl
  next hop => split_ifs at h with hn; cases h; exact encXYN_of_fields (fieldOp_eq_of_toNat hop) hn
  next hop => cases h; exact encXNN_of_fields (fieldOp_eq_of_toNat hop) rfl
  next hop => cases h; exact encXNN_of_fields (fieldOp_eq_of_toNat hop) rfl
  next hop => exact encode_of_decodeFamily8 (fieldOp_eq_of_toNat hop) h
  next hop => split_ifs at h with hn; cases h; exact encXYN_of_fields (fieldOp_eq_of_toNat hop) hn
  next hop => cases h; exact encNNN_of_fieldOp (fieldOp_eq_of_toNat hop)
  next hop => cases h; exact encNNN_of_fieldOp (fieldOp_eq_of_toNat hop)
  next hop => cases h; exact encXNN_of_fields (fieldOp_eq_of_toNat hop) rfl
  next hop => cases h; exact encXYN_of_fields (fieldOp_eq_of_toNat hop) rfl
  next hop => exact encode_of_decodeFamilyE (fieldOp_eq_of_toNat hop) h
  next =>
    simp only [imp_false] at *
    have hop : (fieldOp w).toNat = 0xF := by have := (fieldOp w).isLt; omega
    exact encode_of_decodeFamilyF (fieldOp_eq_of_toNat hop) h

/-- Big-endian (R42): the byte at the lower address counts 256 times. -/
theorem toNat_wordOfBytes (hi lo : Byte) : (wordOfBytes hi lo).toNat = hi.toNat * 256 + lo.toNat := by
  rw [wordOfBytes, BitVec.toNat_append, ← Nat.shiftLeft_add_eq_or_of_lt lo.isLt, Nat.shiftLeft_eq]

end Sys2Proof
end

section
/-! PROOFS. The step cycle and control transfer (spec 40_step_and_control_flow.md R80 to R90): how `exec` can end, said
once for every instruction, and the statements that follow from it. -/

namespace Sys2Proof.Machine

variable {i : Instr} {s t : State}

/-! ## Moving `PC` -/

theorem frame_setPc (s : State) (w : Word16) : Frame s (s.setPc w) onlyPc := by
  intro p hp
  cases p with
  | pc => exact absurd rfl hp
  | _ => rfl

/-- From a `PC` at which a fetch can succeed, adding at most 4 does not wrap (R15). -/
theorem advances_of_pc {k : Nat} (h : t.pc = s.pc + BitVec.ofNat 16 k) : Advances s t k := by
  refine ⟨h, fun hfetch hk => ?_⟩
  rw [h, BitVec.toNat_add, BitVec.toNat_ofNat]
  omega

theorem advances_skipIf (s : State) (c : Prop) [Decidable c] :
    Advances s (s.skipIf (decide c)) (if c then 4 else 2) := by
  by_cases h : c <;> simp only [h, if_true, if_false] <;> exact advances_of_pc (by simp)

theorem frame_skipIf (s : State) (c : Bool) : Frame s (s.skipIf c) onlyPc := by
  rw [State.skipIf_eq]
  exact frame_setPc s _

/-- An instruction that encodes into its row matches that row's pattern under its mask (R63). -/
theorem inRow_of_encodesItsRow (h : Laws.EncodesItsRow.Statement i) : InRow i i.row.pattern i.row.mask := by
  obtain ⟨hselects, -⟩ := h
  exact eq_of_beq hselects

/-- Settles O17: the jump is one write of `PC`, which frames the rest. -/
theorem jumpSetsPc : Obligations.JumpSetsPc := by
  unfold Obligations.JumpSetsPc
  intro nnn s
  have hpc : (addrOperand nnn).toNat = nnn.toNat := BitVec.toNat_setWidth_of_le (by decide)
  exact ⟨_, rfl, hpc, frame_setPc s _, inRow_of_encodesItsRow (Laws.EncodesItsRow.jp nnn), fieldNNN_encNNN ..⟩

/-- Settles O24: each of the four is `skipIf` of its own condition. -/
theorem skipsMoveByFourOrTwo : Obligations.SkipsMoveByFourOrTwo := by
  unfold Obligations.SkipsMoveByFourOrTwo
  intro x y nn s
  exact ⟨⟨_, rfl, advances_skipIf .., frame_skipIf s _⟩, ⟨_, rfl, advances_skipIf .., frame_skipIf s _⟩,
    ⟨_, rfl, advances_skipIf .., frame_skipIf s _⟩, ⟨_, rfl, advances_skipIf .., frame_skipIf s _⟩,
    inRow_of_encodesItsRow (Laws.EncodesItsRow.seImm x nn), inRow_of_encodesItsRow (Laws.EncodesItsRow.sneImm x nn),
    inRow_of_encodesItsRow (Laws.EncodesItsRow.seReg x y), inRow_of_encodesItsRow (Laws.EncodesItsRow.sneReg x y)⟩

/-! ## How an instruction can end -/

/-- What holds of the state `t` that `i` leaves when it raises nothing: `FAULT` is untouched, a sequential instruction
has moved `PC` by 2 (R81), and each timer differs only after the instruction that sets it (R80). -/
structure Completes (i : Instr) (s t : State) : Prop where
  fault : t.fault = s.fault
  pc : sequential i = true → t.pc = s.pc + 2#16
  dt : t.dt = s.dt ∨ ∃ x, i = .ldDtVx x
  st : t.st = s.st ∨ ∃ x, i = .ldStVx x

/-- `i` either completes or raises one of its faults of R194 under its own word and writes nothing else (R80). -/
def CompletesOrRaises (i : Instr) (s : State) : Prop :=
  (∃ t, exec i s = .next t ∧ Completes i s t) ∨
    ∃ t k a, exec i s = .next t ∧ canRaise i k ∧ Raised s t k (encode i) a

theorem completesOrRaises_of_raise {k : FaultKind} {a : Nat} (h : exec i s = .next (s.raise k (encode i) a))
    (hk : canRaise i k) (ha : a < 131072) : CompletesOrRaises i s :=
  .inr ⟨_, k, a, h, hk, raised_raise s k (encode i) a ha⟩

/-- An instruction that checks `n` bytes through `I` raises what the check answers, and else completes (R44). -/
theorem completesOrRaises_of_outOfRange {n : Nat} (hk : 0 < n → canRaise i .outOfBounds)
    (hraise : ∀ a, outOfRange s.i.toNat n = some a → exec i s = .next (s.raise .outOfBounds (encode i) a))
    (hclear : outOfRange s.i.toNat n = none → ∃ t, exec i s = .next t ∧ Completes i s t) : CompletesOrRaises i s := by
  have hI := s.i.isLt
  rcases range_cases s.i.toNat n with ⟨hin, -⟩ | ⟨hout, hpos, -⟩
  · exact .inl (hclear hin)
  · exact completesOrRaises_of_raise (hraise _ hout) (hk hpos) (by omega)

theorem drw_completesOrRaises (x y : Reg) (n : Nibble) (s : State) : CompletesOrRaises (.drw x y n) s := by
  have hk (hpos : 0 < n.toNat) : canRaise (.drw x y n) .outOfBounds := ⟨fun hn => absurd hpos (by simp [hn]), rfl⟩
  exact completesOrRaises_of_outOfRange hk (fun _ => exec_drw_of_outOfRange)
    fun h => ⟨_, exec_drw_of_inRange h, rfl, fun _ => rfl, .inl rfl, .inl rfl⟩

theorem ldB_completesOrRaises (x : Reg) (s : State) : CompletesOrRaises (.ldB x) s :=
  completesOrRaises_of_outOfRange (fun _ => rfl) (fun _ => exec_ldB_of_outOfRange)
    fun h => ⟨_, exec_ldB_of_inRange h, rfl, fun _ => rfl, .inl rfl, .inl rfl⟩

theorem storeRegs_completesOrRaises (x : Reg) (s : State) : CompletesOrRaises (.storeRegs x) s :=
  completesOrRaises_of_outOfRange (fun _ => rfl) (fun _ => exec_storeRegs_of_outOfRange)
    fun h => ⟨_, exec_storeRegs_of_inRange h, by simp, by simp, by simp, by simp⟩

theorem loadRegs_completesOrRaises (x : Reg) (s : State) : CompletesOrRaises (.loadRegs x) s :=
  completesOrRaises_of_outOfRange (fun _ => rfl) (fun _ => exec_loadRegs_of_outOfRange)
    fun h => ⟨_, exec_loadRegs_of_inRange h, by simp, by simp, by simp, by simp⟩

theorem jpV0_completesOrRaises (nnn : Addr12) (s : State) : CompletesOrRaises (.jpV0 nnn) s := by
  by_cases h : s.offsetTarget nnn ≤ 0xFFF
  · exact .inl ⟨_, exec_jpV0_of_inside h, rfl, nofun, .inl rfl, .inl rfl⟩
  · exact completesOrRaises_of_raise (exec_jpV0_of_above (by omega)) rfl (by unfold State.offsetTarget; omega)

theorem exec_call_of_push {nnn : Addr12} (h : s.push (s.pc + 2#16) = some t) :
    exec (.call nnn) s = .next (t.setPc (addrOperand nnn)) := by
  simp only [exec, execCall, h]

theorem exec_call_of_full {nnn : Addr12} (h : s.push (s.pc + 2#16) = none) :
    exec (.call nnn) s = .next (s.raise .stackOverflow (encode (.call nnn)) 0) := by
  simp only [exec, execCall, h]

theorem exec_ret_of_pop {w : Word16} (h : s.pop = some (w, t)) : exec .ret s = .next (t.setPc w) := by
  simp only [exec, execRet, h]

theorem exec_ret_of_empty (h : s.pop = none) : exec .ret s = .next (s.raise .stackUnderflow (encode .ret) 0) := by
  simp only [exec, execRet, h]

theorem exec_ldVxK_of_key {x : Reg} {k : Key} (h : s.lowestKey = some k) :
    exec (.ldVxK x) s = .next (s.setV x (BitVec.ofNat 8 k.val)).advance := by
  simp only [exec, execLdVxK, h]

theorem exec_ldVxK_of_no_key {x : Reg} (h : s.lowestKey = none) : exec (.ldVxK x) s = .next s := by
  simp only [exec, execLdVxK, h]

theorem call_completesOrRaises (nnn : Addr12) (s : State) : CompletesOrRaises (.call nnn) s := by
  rcases s.push_cases (s.pc + 2#16) with ⟨_, hpush⟩ | ⟨-, hpush⟩
  · exact .inl ⟨_, exec_call_of_push hpush, rfl, nofun, .inl rfl, .inl rfl⟩
  · exact completesOrRaises_of_raise (exec_call_of_full hpush) rfl (by decide)

theorem ret_completesOrRaises (s : State) : CompletesOrRaises .ret s := by
  rcases s.pop_cases with ⟨_, _, hpop⟩ | ⟨-, hpop⟩
  · exact .inl ⟨_, exec_ret_of_pop hpop, rfl, nofun, .inl rfl, .inl rfl⟩
  · exact completesOrRaises_of_raise (exec_ret_of_empty hpop) rfl (by decide)

theorem ldVxK_completesOrRaises (x : Reg) (s : State) : CompletesOrRaises (.ldVxK x) s := by
  rcases s.lowestKey_cases with ⟨k, hkey, -⟩ | ⟨hkey, -⟩
  · exact .inl ⟨_, exec_ldVxK_of_key hkey, rfl, nofun, .inl rfl, .inl rfl⟩
  · exact .inl ⟨_, exec_ldVxK_of_no_key hkey, rfl, nofun, .inl rfl, .inl rfl⟩

/-- A logic instruction writes registers and `PC` only, whatever the quirk. -/
theorem completes_writeLogicResult (i : Instr) (s : State) (x : Reg) (r : Byte) :
    Completes i s (s.writeLogicResult x r).advance := by
  rw [State.writeLogicResult_eq]
  split <;> exact ⟨rfl, fun _ => rfl, .inl rfl, .inl rfl⟩

theorem completes_skipIf (c : Bool) (hi : sequential i = false) : Completes i s (s.skipIf c) := by
  rw [State.skipIf_eq]
  exact ⟨rfl, by simp [hi], .inl rfl, .inl rfl⟩

/-- Everything an instruction can do (R80): it completes all its writes, or raises and writes nothing. -/
theorem exec_completesOrRaises (i : Instr) (s : State) : CompletesOrRaises i s := by
  cases i with
  | drw x y n => exact drw_completesOrRaises x y n s
  | ldB x => exact ldB_completesOrRaises x s
  | storeRegs x => exact storeRegs_completesOrRaises x s
  | loadRegs x => exact loadRegs_completesOrRaises x s
  | jpV0 nnn => exact jpV0_completesOrRaises nnn s
  | call nnn => exact call_completesOrRaises nnn s
  | ret => exact ret_completesOrRaises s
  | ldVxK x => exact ldVxK_completesOrRaises x s
  | jp nnn => exact .inl ⟨_, rfl, rfl, nofun, .inl rfl, .inl rfl⟩
  | orReg | andReg | xorReg => exact .inl ⟨_, rfl, completes_writeLogicResult ..⟩
  | seImm | sneImm | seReg | sneReg | skp | sknp => exact .inl ⟨_, rfl, completes_skipIf _ rfl⟩
  | ldDtVx x => exact .inl ⟨_, rfl, rfl, fun _ => rfl, .inr ⟨x, rfl⟩, .inl rfl⟩
  | ldStVx x => exact .inl ⟨_, rfl, rfl, fun _ => rfl, .inl rfl, .inr ⟨x, rfl⟩⟩
  | cls | ldImm | addImm | ldReg | addReg | subReg | shr | subnReg | shl | ldI | rnd | ldVxDt | addI | ldF =>
    exact .inl ⟨_, rfl, rfl, fun _ => rfl, .inl rfl, .inl rfl⟩

theorem ne_none_of_canRaise {k : FaultKind} (h : canRaise i k) : k ≠ .none := by
  rintro rfl
  cases i <;> simp [canRaise] at h

/-- Settles O8: an instruction that completes has moved `PC` by 2; one that raises leaves the core halted. -/
theorem sequentialInstructionsAdvanceByTwo : Obligations.SequentialInstructionsAdvanceByTwo := by
  unfold Obligations.SequentialInstructionsAdvanceByTwo
  intro i s hseq _
  rcases exec_completesOrRaises i s with ⟨t, ht, hdone⟩ | ⟨t, k, a, ht, hk, hkind, -⟩
  · exact ⟨t, ht, fun _ => advances_of_pc (hdone.pc hseq)⟩
  · refine ⟨t, ht, fun hrun => absurd (t.not_halted_iff.mp hrun) ?_⟩
    rw [hkind]
    exact ne_none_of_canRaise hk

/-! ## The step cycle -/

theorem step_of_halted (h : s.halted = true) : step s = .next s := if_pos h

theorem step_of_running (h : s.halted = false) : step s = s.runFetched s.fetchDecode := by
  simp [step, h]

/-- A fetch with a byte above 0xFFF raises `OutOfBounds` at the first such byte, with word 0 (R80, R184). -/
theorem step_raised_of_fetch_outside (hs : s.halted = false) (h : 0xFFE < s.pc.toNat) :
    ∃ t, step s = .next t ∧ Raised s t .outOfBounds 0x0000#16 (max s.pc.toNat 0x1000) := by
  have hpc := s.pc.isLt
  exact ⟨_, step_of_fetch_outOfBounds hs (fetchDecode_outside h), raised_raise _ _ _ _ (by omega)⟩

theorem step_raised_of_illegal {e : DecodeError} (hs : s.halted = false) (h : s.pc.toNat ≤ 0xFFE)
    (he : decodeWord (s.wordAt s.pc.toNat) = .error e) :
    ∃ t, step s = .next t ∧ Raised s t .unknownOpcode (s.wordAt s.pc.toNat) 0 := by
  refine ⟨s.raise .unknownOpcode (s.wordAt s.pc.toNat) 0, ?_, raised_raise _ _ _ _ (by decide)⟩
  rw [step_of_running hs, fetchDecode_inside h, he]
  rfl

theorem step_eq_exec (hs : s.halted = false) (h : s.pc.toNat ≤ 0xFFE)
    (hi : decodeWord (s.wordAt s.pc.toNat) = .ok i) : step s = exec i s := by
  rw [step_of_running hs, fetchDecode_inside h, hi]
  rfl

/-- `exec` of the decoded instruction leaves `FAULT` alone, or raises with the word it was decoded from (R80). -/
theorem exec_fault_eq_or_raised {w : Word16} (h : decodeWord w = .ok i) (s : State) :
    ∃ t, exec i s = .next t ∧ (t.fault = s.fault ∨ ∃ k a, k ≠ .none ∧ Raised s t k w a) := by
  rcases exec_completesOrRaises i s with ⟨t, ht, hdone⟩ | ⟨t, k, a, ht, hk, hraised⟩
  · exact ⟨t, ht, .inl hdone.fault⟩
  · exact ⟨t, ht, .inr ⟨k, a, ne_none_of_canRaise hk, encode_of_decodeWord h ▸ hraised⟩⟩

/-- A step leaves both timers alone, or is an instruction that completes. -/
theorem step_timers_eq_or_completes (h : step s = .next t) :
    (t.dt = s.dt ∧ t.st = s.st) ∨ ∃ i, s.fetchDecode = .instr i ∧ Completes i s t := by
  rcases step_cases h with ⟨-, rfl⟩ | ⟨-, a, -, rfl⟩ | ⟨-, w, -, rfl⟩ | ⟨-, i, hf, hexec⟩
  · exact .inl ⟨rfl, rfl⟩
  · exact .inl ⟨rfl, rfl⟩
  · exact .inl ⟨rfl, rfl⟩
  · rcases exec_completesOrRaises i s with ⟨u, hu, hdone⟩ | ⟨u, k, a, hu, -, -, -, -, -, hframe⟩
    · cases hexec.symm.trans hu
      exact .inr ⟨i, hf, hdone⟩
    · cases hexec.symm.trans hu
      exact .inl ⟨hframe .dt nofun, hframe .st nofun⟩

theorem fetchDecode_of_step_dt_ne (h : step s = .next t) (hdt : t.dt ≠ s.dt) :
    ∃ x, s.fetchDecode = .instr (.ldDtVx x) := by
  rcases step_timers_eq_or_completes h with ⟨hsame, -⟩ | ⟨i, hf, hdone⟩
  · exact absurd hsame hdt
  · obtain ⟨x, rfl⟩ := hdone.dt.resolve_left hdt
    exact ⟨x, hf⟩

theorem fetchDecode_of_step_st_ne (h : step s = .next t) (hst : t.st ≠ s.st) :
    ∃ x, s.fetchDecode = .instr (.ldStVx x) := by
  rcases step_timers_eq_or_completes h with ⟨-, hsame⟩ | ⟨i, hf, hdone⟩
  · exact absurd hsame hst
  · obtain ⟨x, rfl⟩ := hdone.st.resolve_left hst
    exact ⟨x, hf⟩

/-- Settles O7: clause by clause along R80, from the lemma of each way a step can end. -/
theorem stepCycleOfTheSpec : Obligations.StepCycleOfTheSpec := by
  unfold Obligations.StepCycleOfTheSpec
  intro s
  refine ⟨step_of_halted, fun hs hpast => ?past, fun hs hlast => ?last, fun hs hin w hw => ?inside,
    fun _ => fetchDecode_of_step_dt_ne, fun _ => fetchDecode_of_step_st_ne⟩
  case past =>
    have hmax : max s.pc.toNat 0x1000 = s.pc.toNat := by omega
    exact hmax ▸ step_raised_of_fetch_outside hs (by omega)
  case last =>
    have hmax : max s.pc.toNat 0x1000 = 0x1000 := by omega
    exact hmax ▸ step_raised_of_fetch_outside hs (by omega)
  case inside =>
    have hfetch : s.pc.toNat ≤ 0xFFE := by omega
    have hword : w = s.wordAt s.pc.toNat := BitVec.eq_of_toNat_eq (hw.trans (toNat_wordOfBytes ..).symm)
    subst hword
    exact ⟨fun e he => step_raised_of_illegal hs hfetch he,
      fun i hi => ⟨step_eq_exec hs hfetch hi, exec_fault_eq_or_raised hi s⟩⟩

end Sys2Proof.Machine
end

section
/-! PROOFS. Registers and arithmetic (spec 41_alu.md R100 to R106): what a register write and the write of a result with
its flag leave, then the loads and the addition with carry. -/

namespace Sys2Proof.Machine

/-! ## Writing a register, then moving `PC` -/

theorem frame_setV (s : State) (x : Reg) (b : Byte) : Frame s (s.setV x b) (fun p => p = .v x) := by
  intro p hp
  cases p with
  | v y =>
    have hy : y ≠ x := fun h => hp (congrArg Part.v h)
    exact (s.getV_setV x y b).trans (if_neg hy)
  | _ => rfl

theorem advances_advance {s t : State} (h : t.pc = s.pc) : Advances s t.advance 2 :=
  advances_of_pc (congrArg (· + 2#16) h)

theorem frame_advance (s : State) : Frame s s.advance onlyPc := frame_setPc s _

theorem frame_setV_advance (s : State) (x : Reg) (b : Byte) : Frame s (s.setV x b).advance (onlyReg x) :=
  ((frame_setV s x b).trans (frame_advance _)).mono fun _ => Or.symm

theorem getV_setV_same (s : State) (x : Reg) (b : Byte) : (s.setV x b).getV x = b := by simp

/-! ## Writing a result, then its flag (R100) -/

/-- The flag is written last, so it stands whatever register the result goes to. -/
theorem getV_writeResultFlag_flag (s : State) (x : Reg) (r f : Byte) : (s.writeResultFlag x r f).getV flagReg = f := by
  simp

/-- The result stands unless the flag's write replaces it. -/
theorem getV_writeResultFlag_of_ne_flag (s : State) {x : Reg} (r f : Byte) (h : x ≠ flagReg) :
    (s.writeResultFlag x r f).getV x = r := by
  simp [h]

theorem frame_writeResultFlag_advance (s : State) (x : Reg) (r f : Byte) :
    Frame s (s.writeResultFlag x r f).advance (onlyRegFlag x) := by
  have hregs := (frame_setV s x r).trans (frame_setV (s.setV x r) flagReg f)
  exact (hregs.trans (frame_advance _)).mono fun _ => Or.symm

theorem carryFlag_eq (a b : Byte) : carryFlag a b = if a.toNat + b.toNat > 255 then 1#8 else 0#8 := by
  simp [carryFlag, flagByte]

/-! ## The instructions -/

/-- Settles O28: the sum and its carry are read off the old state, and the flag is the last register written. -/
theorem addRegisterSetsCarry : Obligations.AddRegisterSetsCarry := by
  unfold Obligations.AddRegisterSetsCarry
  intro x y s
  refine ⟨_, rfl, fun hx => ?sum, ?carry, advances_advance rfl, frame_writeResultFlag_advance s x _ _, ?row⟩
  case sum =>
    calc ((s.writeResultFlag x (s.getV x + s.getV y) (carryFlag (s.getV x) (s.getV y))).getV x).toNat
      _ = (s.getV x + s.getV y).toNat := by rw [getV_writeResultFlag_of_ne_flag s _ _ hx]
      _ = ((s.getV x).toNat + (s.getV y).toNat) % 256 := BitVec.toNat_add ..
  case carry => exact (getV_writeResultFlag_flag ..).trans (carryFlag_eq ..)
  case row => exact inRow_of_encodesItsRow (Laws.EncodesItsRow.addReg x y)

/-- Settles O25: each is one register write followed by the move of `PC`, also when the register is the flag. -/
theorem loadAndCopyRegister : Obligations.LoadAndCopyRegister := by
  unfold Obligations.LoadAndCopyRegister
  intro x y nn s
  exact ⟨⟨_, rfl, getV_setV_same .., advances_advance rfl, frame_setV_advance s x _⟩,
    ⟨_, rfl, getV_setV_same .., advances_advance rfl, frame_setV_advance s x _⟩,
    inRow_of_encodesItsRow (Laws.EncodesItsRow.ldImm x nn), inRow_of_encodesItsRow (Laws.EncodesItsRow.ldReg x y)⟩

end Sys2Proof.Machine
end

section
/-! PROOFS. The index register (spec 42_index_memory.md R120): what a write of `I` leaves, then the load. -/

namespace Sys2Proof.Machine

/-! ## Writing `I`, then moving `PC` -/

theorem frame_setI (s : State) (w : Word16) : Frame s (s.setI w) (fun p => p = .i) := by
  intro p hp
  cases p with
  | i => exact absurd rfl hp
  | _ => rfl

theorem frame_setI_advance (s : State) (w : Word16) : Frame s (s.setI w).advance onlyI :=
  ((frame_setI s w).trans (frame_advance _)).mono fun _ => Or.symm

/-- A 12-bit operand keeps its value when it is widened to a register of 16 bits. -/
theorem toNat_addrOperand (nnn : Addr12) : (addrOperand nnn).toNat = nnn.toNat :=
  BitVec.toNat_setWidth_of_le (by decide)

/-! ## The load -/

/-- Settles O32: one write of `I` with the widened operand, followed by the move of `PC`. -/
theorem loadIndex : Obligations.LoadIndex := by
  unfold Obligations.LoadIndex
  intro nnn s
  exact ⟨_, rfl, toNat_addrOperand nnn, advances_advance rfl, frame_setI_advance s _,
    inRow_of_encodesItsRow (Laws.EncodesItsRow.ldI nnn)⟩

end Sys2Proof.Machine
end

section
/-! PROOFS. The display (spec 43_display.md R140): what a write of the framebuffer leaves, then the clear. -/

namespace Sys2Proof.Machine

/-! ## Writing the framebuffer, then moving `PC` -/

theorem frame_setFb (s : State) (fb : FrameBuffer) : Frame s (s.setFb fb) (fun p => ∃ q, p = .fb q) := by
  intro p hp
  cases p with
  | fb q => exact absurd ⟨q, rfl⟩ hp
  | _ => rfl

theorem frame_setFb_advance (s : State) (fb : FrameBuffer) :
    Frame s (s.setFb fb).advance (fun p => p = .pc ∨ ∃ q, p = .fb q) :=
  ((frame_setFb s fb).trans (frame_advance _)).mono fun _ => Or.symm

/-! ## The clear -/

/-- Settles O39: one write of the blank framebuffer, followed by the move of `PC`. -/
theorem clearTurnsEveryPixelOff : Obligations.ClearTurnsEveryPixelOff := by
  unfold Obligations.ClearTurnsEveryPixelOff
  intro s
  exact ⟨_, rfl, FrameBuffer.pixel_blank, advances_advance rfl, frame_setFb_advance s _,
    inRow_of_encodesItsRow Laws.EncodesItsRow.cls⟩

end Sys2Proof.Machine
end

section
/-! PROOFS. The delay timer (spec 44_keypad_timers.md R165, R166): what a write of `DT` leaves, what a tick does to a
timer (R195), then the two instructions. -/

namespace Sys2Proof.Machine

/-! ## Writing `DT`, then moving `PC` -/

theorem frame_setDt (s : State) (b : Byte) : Frame s (s.setDt b) (fun p => p = .dt) := by
  intro p hp
  cases p with
  | dt => exact absurd rfl hp
  | _ => rfl

theorem frame_setDt_advance (s : State) (b : Byte) : Frame s (s.setDt b).advance (fun p => p = .pc ∨ p = .dt) :=
  ((frame_setDt s b).trans (frame_advance _)).mono fun _ => Or.symm

/-! ## A tick -/

/-- Natural subtraction stops at 0, as a timer does. -/
theorem toNat_countDown (b : Byte) : (countDown b).toNat = b.toNat - 1 := by
  unfold countDown
  split
  next hzero => simp [hzero]
  next hpos => bv_omega

theorem tick_of_running {s : State} (h : s.halted = false) :
    s.tick = (s.setDt (countDown s.dt)).setSt (countDown s.st) := by
  simp [State.tick, h]

theorem toNat_tick_dt {s : State} (h : s.halted = false) : s.tick.dt.toNat = s.dt.toNat - 1 := by
  rw [tick_of_running h]
  exact toNat_countDown s.dt

/-! ## The instructions -/

/-- Settles O48: the read is one register write, the set is one write of `DT`, each followed by the move of `PC`; the
set does not halt the core, so the next tick counts down from what it wrote. -/
theorem delayTimerReadAndSet : Obligations.DelayTimerReadAndSet := by
  unfold Obligations.DelayTimerReadAndSet
  intro x s
  have hset (hs : s.halted = false) : (s.setDt (s.getV x)).advance.tick.dt.toNat = (s.getV x).toNat - 1 :=
    toNat_tick_dt hs
  exact ⟨⟨_, rfl, getV_setV_same .., advances_advance rfl, frame_setV_advance s x _⟩,
    ⟨_, rfl, rfl, hset, advances_advance rfl, frame_setDt_advance s _⟩,
    inRow_of_encodesItsRow (Laws.EncodesItsRow.ldVxDt x), inRow_of_encodesItsRow (Laws.EncodesItsRow.ldDtVx x)⟩

end Sys2Proof.Machine
end

section
/-! PROOFS. The call stack's faults (spec 60_exceptions.md R182, R183): an instruction that raises in one case and
runs clear in the other faults exactly in that case. -/

namespace Sys2Proof.Machine

variable {i : Instr} {s t : State} {k : FaultKind} {c : Prop}

theorem halted_raise (hk : k ≠ .none) (word : Word16) (addr : Nat) : (s.raise k word addr).halted = true :=
  (s.raise k word addr).halted_iff.mpr hk

theorem halted_of_fault_eq (h : t.fault = s.fault) : t.halted = s.halted := by
  simp only [State.halted, h]

/-- `i` ends halted, with the fault `k`, exactly when `c` holds. -/
def FaultsExactlyWhen (i : Instr) (s : State) (k : FaultKind) (c : Prop) : Prop :=
  ∃ t, exec i s = .next t ∧ (t.fault.kind = k ↔ c) ∧ (t.halted = true ↔ c)

theorem faultsExactlyWhen_of_raise {word : Word16} {addr : Nat} (hk : k ≠ .none) (hc : c)
    (h : exec i s = .next (s.raise k word addr)) : FaultsExactlyWhen i s k c :=
  ⟨_, h, iff_of_true rfl hc, iff_of_true (halted_raise hk word addr) hc⟩

theorem faultsExactlyWhen_of_fault_eq (hs : s.halted = false) (hk : k ≠ .none) (hc : ¬ c)
    (h : exec i s = .next t) (hfault : t.fault = s.fault) : FaultsExactlyWhen i s k c := by
  have hrun : t.halted = false := (halted_of_fault_eq hfault).trans hs
  have hkind : t.fault.kind = .none := t.not_halted_iff.mp hrun
  exact ⟨t, h, iff_of_false (fun hkk => hk (hkk.symm.trans hkind)) hc, iff_of_false (by simp [hrun]) hc⟩

theorem call_faultsExactlyWhen (nnn : Addr12) (hs : s.halted = false) :
    FaultsExactlyWhen (.call nnn) s .stackOverflow (s.sp.val = 16) := by
  rcases s.push_cases (s.pc + 2#16) with ⟨hfree, hpush⟩ | ⟨hfull, hpush⟩
  · exact faultsExactlyWhen_of_fault_eq hs nofun (by omega) (exec_call_of_push hpush) rfl
  · exact faultsExactlyWhen_of_raise nofun hfull (exec_call_of_full hpush)

theorem ret_faultsExactlyWhen (hs : s.halted = false) : FaultsExactlyWhen .ret s .stackUnderflow (s.sp.val = 0) := by
  rcases s.pop_cases with ⟨hvalid, _, hpop⟩ | ⟨hempty, hpop⟩
  · exact faultsExactlyWhen_of_fault_eq hs nofun (by omega) (exec_ret_of_pop hpop) rfl
  · exact faultsExactlyWhen_of_raise nofun hempty (exec_ret_of_empty hpop)

/-- Settles O21: the push fails exactly on a full stack, the pop exactly on an empty one, and each failure is raised. -/
theorem stackFaultsAtTheLimits : Obligations.StackFaultsAtTheLimits := by
  unfold Obligations.StackFaultsAtTheLimits
  intro nnn s hs
  exact ⟨call_faultsExactlyWhen nnn hs, ret_faultsExactlyWhen hs⟩

end Sys2Proof.Machine
end

section
/-! PROOFS. The tick and the sound level (spec 60_exceptions.md R195, R198): what a tick does to `ST` and leaves
unchanged, then the events that change the level. -/

namespace Sys2Proof.Machine

variable {s t : State}

/-! ## The tick -/

theorem tick_of_halted (h : s.halted = true) : s.tick = s := if_pos h

theorem tick_st_of_running (h : s.halted = false) : s.tick.st = countDown s.st := by
  rw [tick_of_running h]
  rfl

theorem toNat_tick_st (h : s.halted = false) : s.tick.st.toNat = s.st.toNat - 1 := by
  rw [tick_st_of_running h]
  exact toNat_countDown s.st

theorem frame_setSt (s : State) (b : Byte) : Frame s (s.setSt b) (fun p => p = .st) := by
  intro p hp
  cases p with
  | st => exact absurd rfl hp
  | _ => rfl

theorem frame_tick (s : State) : Frame s s.tick (fun p => p = .dt ∨ p = .st) := by
  cases h : s.halted with
  | true => rw [tick_of_halted h]; exact Frame.refl s _
  | false => rw [tick_of_running h]; exact (frame_setDt s _).trans (frame_setSt _ _)

/-- Settles O50: each timer is counted down on its own, and the frame is that of the two writes. -/
theorem tickCountsBothTimersDown : Obligations.TickCountsBothTimersDown := by
  unfold Obligations.TickCountsBothTimersDown
  exact ⟨fun s => ⟨tick_of_halted, fun hs => ⟨toNat_tick_dt hs, toNat_tick_st hs⟩, frame_tick s⟩, rfl, rfl⟩

/-! ## The sound level -/

theorem soundOn_iff : s.soundOn = true ↔ s.st ≠ 0#8 := by simp [State.soundOn]

theorem st_ne_of_soundOn_ne (h : t.soundOn ≠ s.soundOn) : t.st ≠ s.st := by
  intro hst
  exact h (by simp only [State.soundOn, hst])

theorem countDown_eq_zero {b : Byte} (hb : b ≠ 0#8) : countDown b = 0#8 ↔ b = 1#8 := by
  unfold countDown
  rw [if_neg hb]
  bv_omega

/-- A tick never turns the level on, and turns it off only from `ST = 1`. -/
theorem tick_st_of_soundOn_ne (h : s.tick.soundOn ≠ s.soundOn) : s.st = 1#8 ∧ s.tick.st = 0#8 := by
  have hrun : s.halted = false := by
    by_contra hh
    exact h (by rw [tick_of_halted (Bool.eq_true_of_not_eq_false hh)])
  have hon : s.st ≠ 0#8 := by
    intro hzero
    exact st_ne_of_soundOn_ne h (by simp [tick_st_of_running hrun, countDown, hzero])
  have hoff : s.tick.st = 0#8 := by
    by_contra hne
    exact h ((soundOn_iff.mpr hne).trans (soundOn_iff.mpr hon).symm)
  exact ⟨(countDown_eq_zero hon).mp ((tick_st_of_running hrun).symm.trans hoff), hoff⟩

/-- A step with its input given is the step, unless it runs `CXNN` with that input (R115). -/
theorem stepWith_cases (s : State) (r : Byte) :
    (∃ x nn, s.stepWith r = .next (rndWith r x nn s)) ∨ s.stepWith r = step s := by
  cases hs : s.halted with
  | true => exact .inr (by simp [State.stepWith, step, hs])
  | false =>
    rw [step_of_running hs]
    simp only [State.stepWith, hs, Bool.false_eq_true, if_false]
    split
    · exact .inl ⟨_, _, rfl⟩
    · exact .inr rfl

/-- A step that changes `ST` completes, so it runs `FX18`, which writes `V[X]` (R167). -/
theorem step_of_st_ne (h : step s = .next t) (hst : t.st ≠ s.st) :
    ∃ x, s.fetchDecode = .instr (.ldStVx x) ∧ t.st = s.getV x := by
  obtain ⟨x, hfetch⟩ := fetchDecode_of_step_st_ne h hst
  refine ⟨x, hfetch, ?_⟩
  cases hs : s.halted with
  | true =>
    cases (step_of_halted hs).symm.trans h
    exact absurd rfl hst
  | false =>
    rw [step_of_running hs, hfetch] at h
    cases h
    rfl

theorem after_step_of_st_ne {r : Byte} (h : (s.after (.step r)).st ≠ s.st) :
    ∃ x, s.fetchDecode = .instr (.ldStVx x) ∧ (s.after (.step r)).st = s.getV x := by
  have hafter : s.after (.step r) = s.landed (s.stepWith r) := rfl
  rw [hafter] at h ⊢
  rcases stepWith_cases s r with ⟨x, nn, hrnd⟩ | hstep
  · rw [hrnd] at h
    exact absurd rfl h
  · rw [hstep] at h ⊢
    cases hout : step s with
    | next t =>
      rw [hout] at h
      exact step_of_st_ne hout h
    | fault | refused =>
      rw [hout] at h
      exact absurd rfl h

theorem after_loadImage_st (s : State) (bytes : List Byte) : (s.after (.loadImage bytes)).st = s.st := by
  simp only [State.after, State.event, State.loadImage]
  split <;> rfl

/-- Settles O52: event by event, the level changes only where `ST` does; the step and the tick have their lemma, and
no other event but `Reset` writes `ST`. -/
theorem soundLevelChangesOnlyAtThree : Obligations.SoundLevelChangesOnlyAtThree := by
  unfold Obligations.SoundLevelChangesOnlyAtThree
  intro s e
  refine ⟨soundOn_iff, fun h => ?_⟩
  cases e with
  | reset => exact .inr (.inr rfl)
  | loadImage bytes => exact absurd (after_loadImage_st s bytes) (st_ne_of_soundOn_ne h)
  | setKeys keys => exact absurd rfl h
  | step r =>
    obtain ⟨x, hfetch, hst⟩ := after_step_of_st_ne (st_ne_of_soundOn_ne h)
    exact .inl ⟨r, x, rfl, hfetch, by simp only [State.soundOn, hst]⟩
  | tick =>
    obtain ⟨hone, hzero⟩ := tick_st_of_soundOn_ne h
    exact .inr (.inl ⟨rfl, hone, hzero⟩)

end Sys2Proof.Machine
end

section
/-! PROOFS. Encoding (spec 30_encoding.md R60 to R68): the decoder inverts the encoder, the rows of the opcode table
select the words the encoder writes, and the words that are left over are the table of illegal words. -/

namespace Sys2Proof

variable {w : Word16} {i : Instr}

/-! ## The decoder after the encoder -/

/-- The decoder inverts the encoder: the family and the low field select the constructor, the other fields are its
operands. -/
theorem decodeWord_encode (i : Instr) : decodeWord (encode i) = .ok i := by
  cases i with
  | cls | ret => decide
  | ldReg | orReg | andReg | xorReg | addReg | subReg | shr | subnReg | shl =>
    simp [encode, decodeWord, decodeFamily8]
  | skp | sknp => simp [encode, decodeWord, decodeFamilyE]
  | ldVxDt | ldVxK | ldDtVx | ldStVx | addI | ldF | ldB | storeRegs | loadRegs =>
    simp [encode, decodeWord, decodeFamilyF]
  | jp | call | seImm | sneImm | seReg | ldImm | addImm | sneReg | ldI | jpV0 | rnd | drw => simp [encode, decodeWord]

/-- Settles O1: decoding the two bytes of a word is decoding the word, and the decoder inverts the encoder. -/
theorem decodeOfEncodeIsTheInstruction : Obligations.DecodeOfEncodeIsTheInstruction := by
  unfold Obligations.DecodeOfEncodeIsTheInstruction
  intro i rest
  have hbytes := decode_word (encode i) rest
  rw [decodeWord_encode] at hbytes
  exact hbytes

/-- Settles O2: a legal word is rebuilt from its fields, family by family. -/
theorem encodeOfDecodeIsTheWord : Obligations.EncodeOfDecodeIsTheWord := by
  unfold Obligations.EncodeOfDecodeIsTheWord
  exact fun _ _ => encode_of_decodeWord

/-! ## The rows of the opcode table (R63) -/

theorem encodesItsRow (i : Instr) : Laws.EncodesItsRow.Statement i := by
  cases i with
  | cls => exact Laws.EncodesItsRow.cls
  | ret => exact Laws.EncodesItsRow.ret
  | jp nnn => exact Laws.EncodesItsRow.jp nnn
  | call nnn => exact Laws.EncodesItsRow.call nnn
  | seImm x nn => exact Laws.EncodesItsRow.seImm x nn
  | sneImm x nn => exact Laws.EncodesItsRow.sneImm x nn
  | seReg x y => exact Laws.EncodesItsRow.seReg x y
  | ldImm x nn => exact Laws.EncodesItsRow.ldImm x nn
  | addImm x nn => exact Laws.EncodesItsRow.addImm x nn
  | ldReg x y => exact Laws.EncodesItsRow.ldReg x y
  | orReg x y => exact Laws.EncodesItsRow.orReg x y
  | andReg x y => exact Laws.EncodesItsRow.andReg x y
  | xorReg x y => exact Laws.EncodesItsRow.xorReg x y
  | addReg x y => exact Laws.EncodesItsRow.addReg x y
  | subReg x y => exact Laws.EncodesItsRow.subReg x y
  | shr x y => exact Laws.EncodesItsRow.shr x y
  | subnReg x y => exact Laws.EncodesItsRow.subnReg x y
  | shl x y => exact Laws.EncodesItsRow.shl x y
  | sneReg x y => exact Laws.EncodesItsRow.sneReg x y
  | ldI nnn => exact Laws.EncodesItsRow.ldI nnn
  | jpV0 nnn => exact Laws.EncodesItsRow.jpV0 nnn
  | rnd x nn => exact Laws.EncodesItsRow.rnd x nn
  | drw x y n => exact Laws.EncodesItsRow.drw x y n
  | skp x => exact Laws.EncodesItsRow.skp x
  | sknp x => exact Laws.EncodesItsRow.sknp x
  | ldVxDt x => exact Laws.EncodesItsRow.ldVxDt x
  | ldVxK x => exact Laws.EncodesItsRow.ldVxK x
  | ldDtVx x => exact Laws.EncodesItsRow.ldDtVx x
  | ldStVx x => exact Laws.EncodesItsRow.ldStVx x
  | addI x => exact Laws.EncodesItsRow.addI x
  | ldF x => exact Laws.EncodesItsRow.ldF x
  | ldB x => exact Laws.EncodesItsRow.ldB x
  | storeRegs x => exact Laws.EncodesItsRow.storeRegs x
  | loadRegs x => exact Laws.EncodesItsRow.loadRegs x

/-- A mask keeps a field when it has all the field's bits. -/
theorem fieldOp_and (w m : Word16) (h : fieldOp m = 0xF#4) : fieldOp (w &&& m) = fieldOp w := by
  unfold fieldOp at *
  rw [BitVec.extractLsb'_and, h]
  exact BitVec.and_allOnes

theorem fieldN_and (w m : Word16) (h : fieldN m = 0xF#4) : fieldN (w &&& m) = fieldN w := by
  unfold fieldN at *
  rw [BitVec.extractLsb'_and, h]
  exact BitVec.and_allOnes

theorem fieldNN_and (w m : Word16) (h : fieldNN m = 0xFF#8) : fieldNN (w &&& m) = fieldNN w := by
  unfold fieldNN at *
  rw [BitVec.extractLsb'_and, h]
  exact BitVec.and_allOnes

/-- What a word that selects a row has in common with the row's pattern: each field that the mask covers. -/
theorem fields_of_selects {p m : Word16} (h : OpcodeRow.selects ⟨p, m⟩ w = true) :
    (fieldOp m = 0xF#4 → fieldOp w = fieldOp p) ∧ (fieldN m = 0xF#4 → fieldN w = fieldN p) ∧
      (fieldNN m = 0xFF#8 → fieldNN w = fieldNN p) := by
  have hand : w &&& m = p := eq_of_beq h
  exact ⟨fun hm => hand ▸ (fieldOp_and w m hm).symm, fun hm => hand ▸ (fieldN_and w m hm).symm,
    fun hm => hand ▸ (fieldNN_and w m hm).symm⟩

/-- A row that fixes only the family selects words of that family alone. -/
theorem fieldOp_of_selects {op : Nibble} {p : Word16} (h : OpcodeRow.selects ⟨p, 0xF000#16⟩ w = true)
    (hop : fieldOp p = op) : fieldOp w = op :=
  ((fields_of_selects h).1 (by decide)).trans hop

theorem encXYN_of_selects {op n : Nibble} {p : Word16} (h : OpcodeRow.selects ⟨p, 0xF00F#16⟩ w = true)
    (hop : fieldOp p = op) (hn : fieldN p = n) : encXYN op (regX w) (regY w) n = w := by
  obtain ⟨hfam, hlow, -⟩ := fields_of_selects h
  exact encXYN_of_fields ((hfam (by decide)).trans hop) ((hlow (by decide)).trans hn)

theorem encXNN_of_selects_lowByte {op : Nibble} {nn : Byte} {p : Word16}
    (h : OpcodeRow.selects ⟨p, 0xF0FF#16⟩ w = true) (hop : fieldOp p = op) (hnn : fieldNN p = nn) :
    encXNN op (regX w) nn = w := by
  obtain ⟨hfam, -, hlow⟩ := fields_of_selects h
  exact encXNN_of_fields ((hfam (by decide)).trans hop) ((hlow (by decide)).trans hnn)

/-- A row whose mask is all ones selects its pattern alone. -/
theorem eq_of_selects {p : Word16} (h : OpcodeRow.selects ⟨p, 0xFFFF#16⟩ w = true) : p = w := by
  have hand : w &&& 0xFFFF#16 = p := eq_of_beq h
  exact hand.symm.trans BitVec.and_allOnes

/-- Every word that selects a row of the table is the encoding of an instruction of that row. -/
theorem exists_encode_of_selects (w : Word16) :
    ∀ r ∈ opcodeRows, r.selects w = true → ∃ i, encode i = w ∧ i.row = r := by
  simp only [opcodeRows, List.cons_append, List.nil_append, List.forall_mem_cons, List.not_mem_nil, false_implies,
    implies_true, and_true]
  exact ⟨
    fun h => ⟨.cls, eq_of_selects h, rfl⟩,
    fun h => ⟨.ret, eq_of_selects h, rfl⟩,
    fun h => ⟨.jp (fieldNNN w), encNNN_of_fieldOp (fieldOp_of_selects h rfl), rfl⟩,
    fun h => ⟨.call (fieldNNN w), encNNN_of_fieldOp (fieldOp_of_selects h rfl), rfl⟩,
    fun h => ⟨.seImm (regX w) (fieldNN w), encXNN_of_fields (fieldOp_of_selects h rfl) rfl, rfl⟩,
    fun h => ⟨.sneImm (regX w) (fieldNN w), encXNN_of_fields (fieldOp_of_selects h rfl) rfl, rfl⟩,
    fun h => ⟨.seReg (regX w) (regY w), encXYN_of_selects h rfl rfl, rfl⟩,
    fun h => ⟨.ldImm (regX w) (fieldNN w), encXNN_of_fields (fieldOp_of_selects h rfl) rfl, rfl⟩,
    fun h => ⟨.addImm (regX w) (fieldNN w), encXNN_of_fields (fieldOp_of_selects h rfl) rfl, rfl⟩,
    fun h => ⟨.ldReg (regX w) (regY w), encXYN_of_selects h rfl rfl, rfl⟩,
    fun h => ⟨.orReg (regX w) (regY w), encXYN_of_selects h rfl rfl, rfl⟩,
    fun h => ⟨.andReg (regX w) (regY w), encXYN_of_selects h rfl rfl, rfl⟩,
    fun h => ⟨.xorReg (regX w) (regY w), encXYN_of_selects h rfl rfl, rfl⟩,
    fun h => ⟨.addReg (regX w) (regY w), encXYN_of_selects h rfl rfl, rfl⟩,
    fun h => ⟨.subReg (regX w) (regY w), encXYN_of_selects h rfl rfl, rfl⟩,
    fun h => ⟨.shr (regX w) (regY w), encXYN_of_selects h rfl rfl, rfl⟩,
    fun h => ⟨.subnReg (regX w) (regY w), encXYN_of_selects h rfl rfl, rfl⟩,
    fun h => ⟨.shl (regX w) (regY w), encXYN_of_selects h rfl rfl, rfl⟩,
    fun h => ⟨.sneReg (regX w) (regY w), encXYN_of_selects h rfl rfl, rfl⟩,
    fun h => ⟨.ldI (fieldNNN w), encNNN_of_fieldOp (fieldOp_of_selects h rfl), rfl⟩,
    fun h => ⟨.jpV0 (fieldNNN w), encNNN_of_fieldOp (fieldOp_of_selects h rfl), rfl⟩,
    fun h => ⟨.rnd (regX w) (fieldNN w), encXNN_of_fields (fieldOp_of_selects h rfl) rfl, rfl⟩,
    fun h => ⟨.drw (regX w) (regY w) (fieldN w), encXYN_of_fields (fieldOp_of_selects h rfl) rfl, rfl⟩,
    fun h => ⟨.skp (regX w), encXNN_of_selects_lowByte h rfl rfl, rfl⟩,
    fun h => ⟨.sknp (regX w), encXNN_of_selects_lowByte h rfl rfl, rfl⟩,
    fun h => ⟨.ldVxDt (regX w), encXNN_of_selects_lowByte h rfl rfl, rfl⟩,
    fun h => ⟨.ldVxK (regX w), encXNN_of_selects_lowByte h rfl rfl, rfl⟩,
    fun h => ⟨.ldDtVx (regX w), encXNN_of_selects_lowByte h rfl rfl, rfl⟩,
    fun h => ⟨.ldStVx (regX w), encXNN_of_selects_lowByte h rfl rfl, rfl⟩,
    fun h => ⟨.addI (regX w), encXNN_of_selects_lowByte h rfl rfl, rfl⟩,
    fun h => ⟨.ldF (regX w), encXNN_of_selects_lowByte h rfl rfl, rfl⟩,
    fun h => ⟨.ldB (regX w), encXNN_of_selects_lowByte h rfl rfl, rfl⟩,
    fun h => ⟨.storeRegs (regX w), encXNN_of_selects_lowByte h rfl rfl, rfl⟩,
    fun h => ⟨.loadRegs (regX w), encXNN_of_selects_lowByte h rfl rfl, rfl⟩⟩

theorem exists_decodeWord_of_selects {r : OpcodeRow} (hr : r ∈ opcodeRows) (h : r.selects w = true) :
    ∃ i, decodeWord w = .ok i ∧ i.row = r := by
  obtain ⟨i, rfl, hrow⟩ := exists_encode_of_selects w r hr h
  exact ⟨i, decodeWord_encode i, hrow⟩

/-- Settles O3: the decoder inverts the encoder both ways, so a legal word is an encoding, which lies in its row; and two
rows that one word selects are the row of the one instruction it decodes to. -/
theorem decoderReadsTheOpcodeTable : Obligations.DecoderReadsTheOpcodeTable := by
  unfold Obligations.DecoderReadsTheOpcodeTable
  refine ⟨fun w i h => ?sound, fun _ _ => exists_decodeWord_of_selects, fun w r r' hr hr' h h' => ?disjoint⟩
  case sound =>
    obtain ⟨hselects, hmem⟩ := encodesItsRow i
    exact ⟨hmem, encode_of_decodeWord h ▸ hselects⟩
  case disjoint =>
    obtain ⟨i, hi, rfl⟩ := exists_decodeWord_of_selects hr h
    obtain ⟨i', hi', rfl⟩ := exists_decodeWord_of_selects hr' h'
    cases hi.symm.trans hi'
    rfl

/-! ## The illegal words (R66) -/

theorem decodeFamily8_eq_error (w : Word16) : decodeFamily8 w = .error (.unknownOpcode w) ↔
    fieldN w ∈ [0x8#4, 0x9#4, 0xA#4, 0xB#4, 0xC#4, 0xD#4, 0xF#4] := by
  simp only [List.mem_cons, List.not_mem_nil, or_false, ← BitVec.toNat_inj, BitVec.toNat_ofNat]
  have hlt := (fieldN w).isLt
  unfold decodeFamily8
  split
  case h_10 =>
    simp only [imp_false] at *
    exact iff_of_true trivial (by omega)
  all_goals simp [*]

theorem decodeFamilyE_eq_error (w : Word16) :
    decodeFamilyE w = .error (.unknownOpcode w) ↔ fieldNN w ∉ [0x9E#8, 0xA1#8] := by
  unfold decodeFamilyE
  split_ifs with h9E hA1
  · simp [h9E]
  · simp [hA1]
  · simp [h9E, hA1]

theorem decodeFamilyF_eq_error (w : Word16) : decodeFamilyF w = .error (.unknownOpcode w) ↔
    fieldNN w ∉ [0x07#8, 0x0A#8, 0x15#8, 0x18#8, 0x1E#8, 0x29#8, 0x33#8, 0x55#8, 0x65#8] := by
  unfold decodeFamilyF
  split_ifs <;> simp [*]

/-- Two words of one family are equal when their low twelve bits are. -/
theorem eq_iff_fieldNNN {p : Word16} (hop : fieldOp w = fieldOp p) : w = p ↔ fieldNNN w = fieldNNN p := by
  refine ⟨congrArg fieldNNN, fun h => ?_⟩
  calc w = encNNN (fieldOp w) (fieldNNN w) := (encNNN_fields w).symm
    _ = encNNN (fieldOp p) (fieldNNN p) := by rw [hop, h]
    _ = p := encNNN_fields p

/-- In family 0 only two words are legal, and the low twelve bits tell which. -/
theorem family0_eq_error (hop : fieldOp w = 0x0#4) :
    (if w = 0x00E0#16 then .ok .cls else if w = 0x00EE#16 then .ok .ret else .error (.unknownOpcode w)) =
      (.error (.unknownOpcode w) : Except DecodeError Instr) ↔ fieldNNN w ≠ 0x0E0#12 ∧ fieldNNN w ≠ 0x0EE#12 := by
  have hcls : w = 0x00E0#16 ↔ fieldNNN w = 0x0E0#12 := eq_iff_fieldNNN hop
  have hret : w = 0x00EE#16 ↔ fieldNNN w = 0x0EE#12 := eq_iff_fieldNNN hop
  rw [ne_eq, ne_eq, ← hcls, ← hret]
  split_ifs with h h'
  · exact iff_of_false nofun fun hne => hne.1 h
  · exact iff_of_false nofun fun hne => hne.2 h'
  · exact iff_of_true rfl ⟨h, h'⟩

theorem fieldOp_eq_iff {op : Nibble} : fieldOp w = op ↔ (fieldOp w).toNat = op.toNat := BitVec.toNat_inj.symm

/-- Settles O4: the family fixes which of the six rows of R66 can apply, and that row is what its decoder leaves over. -/
theorem illegalWordsAreExactlyTheTable : Obligations.IllegalWordsAreExactlyTheTable := by
  unfold Obligations.IllegalWordsAreExactlyTheTable
  intro w
  simp only [fieldOp_eq_iff]
  unfold decodeWord
  split
  case h_1 hop => simpa [hop] using family0_eq_error (fieldOp_eq_of_toNat hop)
  case h_9 hop => simpa [hop] using decodeFamily8_eq_error w
  case h_15 hop => simpa [hop] using decodeFamilyE_eq_error w
  case h_16 =>
    have hop : (fieldOp w).toNat = 0xF := by
      have hlt := (fieldOp w).isLt
      simp only [imp_false] at *
      omega
    simpa [hop] using decodeFamilyF_eq_error w
  -- The other families are legal throughout, but 5 and 9, which test the low nibble.
  all_goals simp [*]

/-- Settles O5: each word is decoded. -/
theorem wordsOfTheSpecDecode : Obligations.WordsOfTheSpecDecode := by
  unfold Obligations.WordsOfTheSpecDecode
  decide

end Sys2Proof
end

section
/-! PROOFS. How an instruction can end, with the state it leaves named: the eight instructions that end in more than one
way, each as one inversion lemma, and the frames of the updates they are made of. -/

namespace Sys2Proof.Machine

variable {i : Instr} {s t u : State}

/-! ## The instructions that end in more than one way -/

/-- `t` is `s` after `i` raised one of its faults of R194 under its own word. -/
def RaisedBy (i : Instr) (s t : State) : Prop :=
  ∃ k a, canRaise i k ∧ a < 131072 ∧ t = s.raise k (encode i) a

theorem raised_of_raisedBy (h : RaisedBy i s t) : ∃ k a, canRaise i k ∧ Raised s t k (encode i) a := by
  obtain ⟨k, a, hk, ha, rfl⟩ := h
  exact ⟨k, a, hk, raised_raise s k (encode i) a ha⟩

/-- An instruction that checks `n` bytes through `I` raises, or it has them in range and leaves `u` (R44). -/
theorem exec_cases_of_outOfRange {n : Nat} (hk : 0 < n → canRaise i .outOfBounds)
    (hraise : ∀ a, outOfRange s.i.toNat n = some a → exec i s = .next (s.raise .outOfBounds (encode i) a))
    (hclear : outOfRange s.i.toNat n = none → exec i s = .next u) (h : exec i s = .next t) :
    RaisedBy i s t ∨ ((n = 0 ∨ s.i.toNat + n ≤ 0x1000) ∧ t = u) := by
  rcases range_cases s.i.toNat n with ⟨hnone, hin⟩ | ⟨hsome, hpos, -⟩
  · cases h.symm.trans (hclear hnone)
    exact .inr ⟨hin, rfl⟩
  · cases h.symm.trans (hraise _ hsome)
    have hI := s.i.isLt
    exact .inl ⟨_, _, hk hpos, by omega, rfl⟩

theorem exec_drw_cases {x y : Reg} {n : Nibble} (h : exec (.drw x y n) s = .next t) :
    RaisedBy (.drw x y n) s t ∨ ((n.toNat = 0 ∨ s.i.toNat + n.toNat ≤ 0x1000) ∧
      t = ((s.setFb (blit s.fb (s.spritePixels x y n)).fb).setV flagReg
        (collisionFlag (blit s.fb (s.spritePixels x y n)).hit)).advance) := by
  have hk (hpos : 0 < n.toNat) : canRaise (.drw x y n) .outOfBounds := ⟨fun hn => absurd hpos (by simp [hn]), rfl⟩
  exact exec_cases_of_outOfRange hk (fun _ => exec_drw_of_outOfRange) exec_drw_of_inRange h

theorem exec_ldB_cases {x : Reg} (h : exec (.ldB x) s = .next t) :
    RaisedBy (.ldB x) s t ∨
      (s.i.toNat + 3 ≤ 0x1000 ∧ t = (s.storeBytes (s.effAddr 0) (bcdDigits (s.getV x))).advance) := by
  have hends := exec_cases_of_outOfRange (i := .ldB x) (fun _ => rfl) (fun _ => exec_ldB_of_outOfRange)
    exec_ldB_of_inRange h
  exact hends.imp_right (And.imp_left (Or.resolve_left · (by decide)))

theorem exec_storeRegs_cases {x : Reg} (h : exec (.storeRegs x) s = .next t) :
    RaisedBy (.storeRegs x) s t ∨
      (s.i.toNat + (x.val + 1) ≤ 0x1000 ∧ t = ((s.storeBytes (s.effAddr 0) (s.regBlock x)).bumpI x).advance) := by
  have hends := exec_cases_of_outOfRange (i := .storeRegs x) (fun _ => rfl) (fun _ => exec_storeRegs_of_outOfRange)
    exec_storeRegs_of_inRange h
  exact hends.imp_right (And.imp_left (Or.resolve_left · (Nat.succ_ne_zero _)))

theorem exec_loadRegs_cases {x : Reg} (h : exec (.loadRegs x) s = .next t) :
    RaisedBy (.loadRegs x) s t ∨
      (s.i.toNat + (x.val + 1) ≤ 0x1000 ∧ t = ((s.setAllV (s.loadedRegs x)).bumpI x).advance) := by
  have hends := exec_cases_of_outOfRange (i := .loadRegs x) (fun _ => rfl) (fun _ => exec_loadRegs_of_outOfRange)
    exec_loadRegs_of_inRange h
  exact hends.imp_right (And.imp_left (Or.resolve_left · (Nat.succ_ne_zero _)))

theorem exec_jpV0_cases {nnn : Addr12} (h : exec (.jpV0 nnn) s = .next t) :
    RaisedBy (.jpV0 nnn) s t ∨ (s.offsetTarget nnn ≤ 0xFFF ∧ t = s.setPc (BitVec.ofNat 16 (s.offsetTarget nnn))) := by
  by_cases hin : s.offsetTarget nnn ≤ 0xFFF
  · cases h.symm.trans (exec_jpV0_of_inside hin)
    exact .inr ⟨hin, rfl⟩
  · cases h.symm.trans (exec_jpV0_of_above (Nat.lt_of_not_le hin))
    exact .inl ⟨_, _, rfl, by unfold State.offsetTarget; omega, rfl⟩

theorem exec_call_cases {nnn : Addr12} (h : exec (.call nnn) s = .next t) :
    RaisedBy (.call nnn) s t ∨ ∃ u, s.push (s.pc + 2#16) = some u ∧ t = u.setPc (addrOperand nnn) := by
  cases hpush : s.push (s.pc + 2#16) with
  | some u =>
    cases h.symm.trans (exec_call_of_push hpush)
    exact .inr ⟨u, rfl, rfl⟩
  | none =>
    cases h.symm.trans (exec_call_of_full hpush)
    exact .inl ⟨_, _, rfl, by decide, rfl⟩

theorem exec_ret_cases (h : exec .ret s = .next t) :
    RaisedBy .ret s t ∨ ∃ w u, s.pop = some (w, u) ∧ t = u.setPc w := by
  cases hpop : s.pop with
  | some p =>
    cases h.symm.trans (exec_ret_of_pop hpop)
    exact .inr ⟨_, _, rfl, rfl⟩
  | none =>
    cases h.symm.trans (exec_ret_of_empty hpop)
    exact .inl ⟨_, _, rfl, by decide, rfl⟩

theorem exec_ldVxK_cases {x : Reg} (h : exec (.ldVxK x) s = .next t) :
    t = s ∨ ∃ k : Key, t = (s.setV x (BitVec.ofNat 8 k.val)).advance := by
  cases hkey : s.lowestKey with
  | none =>
    cases h.symm.trans (exec_ldVxK_of_no_key hkey)
    exact .inl rfl
  | some k =>
    cases h.symm.trans (exec_ldVxK_of_key hkey)
    exact .inr ⟨k, rfl⟩

/-! ## The stack -/

theorem push_eq_some {w : Word16} (h : s.push w = some t) :
    ∃ hfree : s.sp.val < 16, t = { s with stack := s.stack.set s.sp.val w hfree, sp := ⟨s.sp.val + 1, by omega⟩ } := by
  rcases s.push_cases w with ⟨hfree, hpush⟩ | ⟨-, hpush⟩
  · exact ⟨hfree, Option.some.inj (h.symm.trans hpush)⟩
  · cases h.symm.trans hpush

theorem pop_eq_some {w : Word16} (h : s.pop = some (w, t)) :
    ∃ (_ : 0 < s.sp.val) (hj : s.sp.val - 1 < 16),
      w = s.stack[s.sp.val - 1] ∧ t = { s with sp := ⟨s.sp.val - 1, by omega⟩ } := by
  rcases s.pop_cases with ⟨hpos, hj, hpop⟩ | ⟨-, hpop⟩
  · cases h.symm.trans hpop
    exact ⟨hpos, hj, rfl, rfl⟩
  · cases h.symm.trans hpop

/-- A push writes the first free entry and no other. -/
theorem push_getStack {w : Word16} (h : s.push w = some t) (j : Fin 16) :
    t.getStack j = if j.val = s.sp.val then w else s.getStack j := by
  obtain ⟨hfree, rfl⟩ := push_eq_some h
  simp only [State.getStack, Fin.getElem_fin, Vector.getElem_set, eq_comm]

theorem push_sp {w : Word16} (h : s.push w = some t) : t.sp.val = s.sp.val + 1 := by
  obtain ⟨hfree, rfl⟩ := push_eq_some h
  rfl

theorem frame_push {w : Word16} (h : s.push w = some t) :
    Frame s t (fun p => p = .sp ∨ ∃ j : Fin 16, j.val = s.sp.val ∧ p = .stack j) := by
  intro p hp
  cases p with
  | sp => exact absurd (.inl rfl) hp
  | stack j =>
    have hj : j.val ≠ s.sp.val := fun hj => hp (.inr ⟨j, hj, rfl⟩)
    exact (push_getStack h j).trans (if_neg hj)
  | _ =>
    obtain ⟨hfree, rfl⟩ := push_eq_some h
    rfl

theorem frame_pop {w : Word16} (h : s.pop = some (w, t)) : Frame s t (fun p => p = .sp) := by
  obtain ⟨hpos, hj, -, rfl⟩ := pop_eq_some h
  intro p hp
  cases p with
  | sp => exact absurd rfl hp
  | _ => rfl

/-! ## Blocks of bytes and of registers -/

theorem readByte_storeBytes (s : State) (a a' : Nat) (bs : List Byte) :
    (s.storeBytes a bs).readByte a' = if a ≤ a' then (bs[a' - a]?).getD (s.readByte a') else s.readByte a' :=
  Memory.read_writeList bs s.mem a a'

theorem readByte_storeBytes_inside (s : State) (a k : Nat) (bs : List Byte) (h : k < bs.length) :
    (s.storeBytes a bs).readByte (a + k) = bs[k] := by
  rw [readByte_storeBytes, if_pos (Nat.le_add_right a k), Nat.add_sub_cancel_left, List.getElem?_eq_getElem h]
  rfl

theorem frame_storeBytes (s : State) (a : Nat) (bs : List Byte) :
    Frame s (s.storeBytes a bs) (fun p => ∃ k, k < bs.length ∧ p = .mem (a + k)) := by
  intro p hp
  cases p with
  | mem a' =>
    show (s.storeBytes a bs).readByte a' = s.readByte a'
    rw [readByte_storeBytes]
    split
    next hle =>
      obtain ⟨k, rfl⟩ := Nat.exists_eq_add_of_le hle
      have hk : bs.length ≤ k := Nat.le_of_not_lt fun hk => hp ⟨k, hk, rfl⟩
      simp [List.getElem?_eq_none hk]
    next => rfl
  | _ => rfl

theorem frame_setAllV (s : State) (vs : Vector Byte 16) :
    Frame s (s.setAllV vs) (fun p => ∃ k : Reg, vs[k.val] ≠ s.getV k ∧ p = .v k) := by
  intro p hp
  cases p with
  | v k => exact Classical.byContradiction fun hk => hp ⟨k, hk, rfl⟩
  | _ => rfl

theorem frame_loadedRegs (s : State) (x : Reg) :
    Frame s (s.setAllV (s.loadedRegs x)) (fun p => ∃ k : Reg, k ≤ x ∧ p = .v k) := by
  refine (frame_setAllV s _).mono fun p ⟨k, hne, hp⟩ => ⟨k, ?_, hp⟩
  by_contra hk
  exact hne (by rw [s.getElem_loadedRegs, if_neg hk])

theorem frame_bumpI (s : State) (x : Reg) : Frame s (s.bumpI x) (fun p => s.quirks.loadStoreIncI = true ∧ p = .i) := by
  unfold State.bumpI
  split
  next hq => exact (frame_setI s _).mono fun _ hp => ⟨hq, hp⟩
  next => exact Frame.refl s _

/-! ## Registers and counts -/

theorem frame_setSt_advance (s : State) (b : Byte) : Frame s (s.setSt b).advance (fun p => p = .pc ∨ p = .st) :=
  ((frame_setSt s b).trans (frame_advance _)).mono fun _ => Or.symm

theorem frame_writeLogicResult_advance (s : State) (x : Reg) (r : Byte) :
    Frame s (s.writeLogicResult x r).advance
      (fun p => p = .pc ∨ p = .v x ∨ (s.quirks.logicResetsVf = true ∧ p = .v flagReg)) := by
  rw [State.writeLogicResult_eq]
  split
  next hq =>
    exact (frame_writeResultFlag_advance s x r 0#8).mono fun _ => Or.imp_right (Or.imp_right fun hp => ⟨hq, hp⟩)
  next => exact (frame_setV_advance s x r).mono fun _ => Or.imp_right .inl

theorem frame_rndWith (r : Byte) (x : Reg) (nn : Byte) (s : State) :
    Frame s (rndWith r x nn s) (fun p => p = .pc ∨ p = .v x ∨ p = .rndCount) := by
  have hcount : Frame (s.setV x (r &&& nn)).advance (rndWith r x nn s) (fun p => p = .rndCount) := by
    intro p hp
    cases p with
    | rndCount => exact absurd rfl hp
    | _ => rfl
  exact ((frame_setV_advance s x _).trans hcount).mono fun _ => or_assoc.mp

theorem frame_drawn (s : State) (fb : FrameBuffer) (b : Byte) :
    Frame s ((s.setFb fb).setV flagReg b).advance (fun p => p = .pc ∨ p = .v flagReg ∨ ∃ q, p = .fb q) :=
  ((frame_setFb s fb).trans (frame_setV_advance _ flagReg b)).mono fun _ => or_comm.trans or_assoc |>.mp

end Sys2Proof.Machine
end

section
/-! PROOFS. What an instruction and a step can write (spec 10_state.md R28, 60_exceptions.md R186 to R194). -/

namespace Sys2Proof.Machine

variable {i : Instr} {s t : State}

/-! ## The access matrix (R28) -/

theorem call_frame_or_raisedBy {nnn : Addr12} (h : exec (.call nnn) s = .next t) :
    Frame s t (fun p => p = .pc ∨ writes (.call nnn) s p) ∨ RaisedBy (.call nnn) s t := by
  rcases exec_call_cases h with hraised | ⟨u, hpush, rfl⟩
  · exact .inr hraised
  · exact .inl (((frame_push hpush).trans (frame_setPc u _)).mono fun _ => Or.symm)

theorem ret_frame_or_raisedBy (h : exec .ret s = .next t) :
    Frame s t (fun p => p = .pc ∨ writes .ret s p) ∨ RaisedBy .ret s t := by
  rcases exec_ret_cases h with hraised | ⟨w, u, hpop, rfl⟩
  · exact .inr hraised
  · exact .inl (((frame_pop hpop).trans (frame_setPc u _)).mono fun _ => Or.symm)

theorem frame_storeBytes_advance (s : State) (a : Nat) (bs : List Byte) :
    Frame s (s.storeBytes a bs).advance (fun p => p = .pc ∨ ∃ k, k < bs.length ∧ p = .mem (a + k)) :=
  ((frame_storeBytes s a bs).trans (frame_advance _)).mono fun _ => Or.symm

theorem frame_storeRegs (s : State) (x : Reg) :
    Frame s ((s.storeBytes (s.effAddr 0) (s.regBlock x)).bumpI x).advance
      (fun p => p = .pc ∨ writes (.storeRegs x) s p) := by
  have hstored : Frame s (s.storeBytes (s.effAddr 0) (s.regBlock x))
      (fun p => ∃ k : Nat, k ≤ x.val ∧ p = .mem (s.effAddr k)) :=
    (frame_storeBytes s _ _).mono fun p ⟨k, hk, hp⟩ =>
      ⟨k, by rw [s.length_regBlock] at hk; omega, hp⟩
  exact ((hstored.trans (frame_bumpI _ x)).trans (frame_advance _)).mono fun _ => Or.symm

theorem frame_loadRegs (s : State) (x : Reg) :
    Frame s ((s.setAllV (s.loadedRegs x)).bumpI x).advance (fun p => p = .pc ∨ writes (.loadRegs x) s p) :=
  (((frame_loadedRegs s x).trans (frame_bumpI _ x)).trans (frame_advance _)).mono fun _ => Or.symm

/-- Everything an instruction can write: its columns of the access matrix, or `FAULT` alone (R28, R80). -/
theorem exec_frame_or_raisedBy (h : exec i s = .next t) :
    Frame s t (fun p => p = .pc ∨ writes i s p) ∨ RaisedBy i s t := by
  cases i with
  | call nnn => exact call_frame_or_raisedBy h
  | ret => exact ret_frame_or_raisedBy h
  | jpV0 nnn =>
    rcases exec_jpV0_cases h with hraised | ⟨-, rfl⟩
    · exact .inr hraised
    · exact .inl ((frame_setPc s _).mono fun _ => .inl)
  | drw x y n =>
    rcases exec_drw_cases h with hraised | ⟨-, rfl⟩
    · exact .inr hraised
    · exact .inl (frame_drawn s _ _)
  | ldB x =>
    rcases exec_ldB_cases h with hraised | ⟨-, rfl⟩
    · exact .inr hraised
    · exact .inl (frame_storeBytes_advance s _ _)
  | storeRegs x =>
    rcases exec_storeRegs_cases h with hraised | ⟨-, rfl⟩
    · exact .inr hraised
    · exact .inl (frame_storeRegs s x)
  | loadRegs x =>
    rcases exec_loadRegs_cases h with hraised | ⟨-, rfl⟩
    · exact .inr hraised
    · exact .inl (frame_loadRegs s x)
  | ldVxK x =>
    rcases exec_ldVxK_cases h with rfl | ⟨k, rfl⟩
    · exact .inl (Frame.refl _ _)
    · exact .inl (frame_setV_advance s x _)
  | jp nnn => cases h; exact .inl ((frame_setPc s _).mono fun _ => .inl)
  | seImm | sneImm | seReg | sneReg | skp | sknp => cases h; exact .inl ((frame_skipIf s _).mono fun _ => .inl)
  | ldImm | addImm | ldReg | ldVxDt => cases h; exact .inl (frame_setV_advance s _ _)
  | orReg | andReg | xorReg => cases h; exact .inl (frame_writeLogicResult_advance s _ _)
  | addReg | subReg | shr | subnReg | shl => cases h; exact .inl (frame_writeResultFlag_advance s _ _ _)
  | ldI | addI | ldF => cases h; exact .inl (frame_setI_advance s _)
  | rnd x nn => cases h; exact .inl (frame_rndWith _ x nn s)
  | cls => cases h; exact .inl (frame_setFb_advance s _)
  | ldDtVx => cases h; exact .inl (frame_setDt_advance s _)
  | ldStVx => cases h; exact .inl (frame_setSt_advance s _)

/-- Settles O13: instruction by instruction, from the frames of the updates it is made of. -/
theorem instructionsWriteOnlyTheirColumns : Obligations.InstructionsWriteOnlyTheirColumns := by
  unfold Obligations.InstructionsWriteOnlyTheirColumns
  exact fun i s t h => (exec_frame_or_raisedBy h).imp_right raised_of_raisedBy

/-! ## Faults -/

theorem exec_next (i : Instr) (s : State) : ∃ t, exec i s = .next t := by
  rcases exec_completesOrRaises i s with ⟨t, ht, -⟩ | ⟨t, _, _, ht, -⟩ <;> exact ⟨t, ht⟩

theorem step_next (s : State) : ∃ t, step s = .next t := by
  cases hs : s.halted with
  | true => exact ⟨s, step_of_halted hs⟩
  | false =>
    rw [step_of_running hs]
    cases s.fetchDecode with
    | outOfBounds a => exact ⟨_, rfl⟩
    | illegal w => exact ⟨_, rfl⟩
    | instr i => exact exec_next i s

/-- Settles O12: a fault is a next state, and every instruction completes or raises. -/
theorem everyStepAnswersANextState : Obligations.EveryStepAnswersANextState := by
  unfold Obligations.EveryStepAnswersANextState
  exact ⟨step_next, exec_next⟩

/-- An instruction that halts a running core has raised: one that completes leaves `FAULT` alone. -/
theorem exec_raised_of_halts (hs : s.halted = false) (h : exec i s = .next t) (ht : t.halted = true) :
    ∃ k a, canRaise i k ∧ Raised s t k (encode i) a := by
  rcases exec_completesOrRaises i s with ⟨u, hu, hdone⟩ | ⟨u, k, a, hu, hk, hraised⟩
  · cases h.symm.trans hu
    have hrun := (halted_of_fault_eq hdone.fault).trans hs
    exact absurd ht (by simp [hrun])
  · cases h.symm.trans hu
    exact ⟨k, a, hk, hraised⟩

/-- Settles O10: what halts a running core is a raise, of a kind the table gives the instruction. -/
theorem onlyTheSevenInstructionsRaise : Obligations.OnlyTheSevenInstructionsRaise := by
  unfold Obligations.OnlyTheSevenInstructionsRaise
  intro i s t hs h ht
  obtain ⟨k, a, hk, hkind, -⟩ := exec_raised_of_halts hs h ht
  exact hkind ▸ hk

/-- Settles O9: a step halts the core by a fault of the fetch, of the decode, or of the instruction, and the word
recorded is the one that was fetched. -/
theorem aFaultingStepChangesOnlyTheRecord : Obligations.AFaultingStepChangesOnlyTheRecord := by
  unfold Obligations.AFaultingStepChangesOnlyTheRecord
  intro s t hs h ht
  by_cases hpc : s.pc.toNat ≤ 0xFFE
  · rw [if_pos hpc]
    cases hword : decodeWord (s.wordAt s.pc.toNat) with
    | error e =>
      obtain ⟨u, hu, hraised⟩ := step_raised_of_illegal hs hpc hword
      cases h.symm.trans hu
      exact ⟨.unknownOpcode, 0, nofun, hraised⟩
    | ok i =>
      rw [step_eq_exec hs hpc hword] at h
      obtain ⟨k, a, hk, hraised⟩ := exec_raised_of_halts hs h ht
      exact ⟨k, a, ne_none_of_canRaise hk, encode_of_decodeWord hword ▸ hraised⟩
  · rw [if_neg hpc]
    obtain ⟨u, hu, hraised⟩ := step_raised_of_fetch_outside hs (Nat.lt_of_not_le hpc)
    cases h.symm.trans hu
    exact ⟨.outOfBounds, _, nofun, hraised⟩

/-! ## The step -/

theorem decodeWord_of_decode_eq {hi lo : Byte} (h : decode [hi, lo] = .ok (i, [])) :
    decodeWord (wordOfBytes hi lo) = .ok i := by
  cases hword : decodeWord (wordOfBytes hi lo) with
  | ok j => simpa [decode, hword] using h
  | error e => simp [decode, hword] at h

/-- Settles O6: the two bytes at `PC` spell the word that the step decodes. -/
theorem stepRunsTheDecodedInstruction : Obligations.StepRunsTheDecodedInstruction := by
  unfold Obligations.StepRunsTheDecodedInstruction
  exact fun s i hs hpc h => step_eq_exec hs hpc (decodeWord_of_decode_eq h)

theorem stepWith_of_halted (hs : s.halted = true) (r : Byte) : s.stepWith r = .next s := if_pos hs

theorem stepWith_of_fetch_rnd {x : Reg} {nn : Byte} (hs : s.halted = false) (h : s.fetchDecode = .instr (.rnd x nn))
    (r : Byte) : s.stepWith r = .next (rndWith r x nn s) := by
  simp [State.stepWith, hs, h]

/-- An instruction other than `CXNN` ignores the step's input (R7). -/
theorem stepWith_eq_step (h : ∀ x nn, s.fetchDecode ≠ .instr (.rnd x nn)) (r : Byte) : s.stepWith r = step s := by
  cases hs : s.halted with
  | true => rw [stepWith_of_halted hs, step_of_halted hs]
  | false =>
    rw [step_of_running hs]
    -- The last alternative of `stepWith` applies because `h` excludes the first.
    simp only [State.stepWith, hs, Bool.false_eq_true, if_false]

theorem step_eq_stepWith_rnd (s : State) : step s = s.stepWith (Config.rnd s.rndCount) := by
  cases hs : s.halted with
  | true => rw [stepWith_of_halted hs, step_of_halted hs]
  | false =>
    by_cases h : ∃ x nn, s.fetchDecode = .instr (.rnd x nn)
    · obtain ⟨x, nn, hrnd⟩ := h
      exact ((step_of_running hs).trans (congrArg s.runFetched hrnd)).trans (stepWith_of_fetch_rnd hs hrnd _).symm
    · exact (stepWith_eq_step (fun x nn hrnd => h ⟨x, nn, hrnd⟩) _).symm

/-- Settles O16: `CXNN` is the one arm of the step with input that reads it, and `exec` gives it the next free byte. -/
theorem onlyRandomConsumesTheStepInput : Obligations.OnlyRandomConsumesTheStepInput := by
  unfold Obligations.OnlyRandomConsumesTheStepInput
  exact fun s => ⟨step_eq_stepWith_rnd s, stepWith_eq_step⟩

end Sys2Proof.Machine
end

section
/-! PROOFS. What no step can observe (spec 10_state.md R17, R19): the sound timer, and the stack entries that are not
valid. An instruction runs alike whatever they hold. -/

namespace Sys2Proof.Machine

variable {i : Instr} {s t : State}

/-- The state with another sound timer and another stack array, each a function of its own. -/
def State.mapHidden (f : Byte → Byte) (g : Vector Word16 16 → Vector Word16 16) (s : State) : State :=
  { s with st := f s.st, stack := g s.stack }

/-- An outcome with its next state changed. -/
def mapNext (g : State → State) : Host.Outcome State Fault Refusal → Host.Outcome State Fault Refusal
  | .next s => .next (g s)
  | .fault r => .fault r
  | .refused r => .refused r

/-- The instructions that read or write `ST` or the stack. -/
def usesHidden : Instr → Bool
  | .ldStVx _ => true
  | .call _ => true
  | .ret => true
  | _ => false

section

variable (f : Byte → Byte) (g : Vector Word16 16 → Vector Word16 16)

theorem bumpI_mapHidden (s : State) (x : Reg) : (s.mapHidden f g).bumpI x = (s.bumpI x).mapHidden f g := by
  rw [State.bumpI_eq, State.bumpI_eq]
  rfl

theorem setAllV_bumpI_advance_mapHidden (s : State) (vs : Vector Byte 16) (x : Reg) :
    (((s.mapHidden f g).setAllV vs).bumpI x).advance = ((s.setAllV vs).bumpI x).advance.mapHidden f g :=
  congrArg State.advance (bumpI_mapHidden f g (s.setAllV vs) x)

theorem writeLogicResult_mapHidden (s : State) (x : Reg) (r : Byte) :
    (s.mapHidden f g).writeLogicResult x r = (s.writeLogicResult x r).mapHidden f g := by
  unfold State.writeLogicResult
  exact (apply_ite (State.mapHidden f g)
    (s.quirks.logicResetsVf = true) ((s.setV x r).setV flagReg 0#8) (s.setV x r)).symm

theorem skipIf_mapHidden (s : State) (c : Bool) : (s.mapHidden f g).skipIf c = (s.skipIf c).mapHidden f g := by
  rw [State.skipIf_eq, State.skipIf_eq]
  rfl

/-- The range check reads `I` alone, so a checked instruction commutes when its effect `u` does. -/
theorem exec_mapHidden_of_outOfRange {n : Nat} {u : State → State}
    (hraise : ∀ s a, outOfRange s.i.toNat n = some a → exec i s = .next (s.raise .outOfBounds (encode i) a))
    (hclear : ∀ s, outOfRange s.i.toNat n = none → exec i s = .next (u s))
    (hu : u (s.mapHidden f g) = (u s).mapHidden f g) :
    exec i (s.mapHidden f g) = mapNext (State.mapHidden f g) (exec i s) := by
  cases h : outOfRange s.i.toNat n with
  | some a =>
    rw [hraise s a h]
    exact hraise (s.mapHidden f g) a h
  | none =>
    rw [hclear s h]
    exact (hclear (s.mapHidden f g) h).trans (congrArg Host.Outcome.next hu)

/-- An instruction that uses neither commutes with any change of the two. -/
theorem exec_mapHidden (hi : usesHidden i = false) (s : State) :
    exec i (s.mapHidden f g) = mapNext (State.mapHidden f g) (exec i s) := by
  cases i with
  | ldStVx | call | ret => cases hi
  | drw x y n =>
    exact exec_mapHidden_of_outOfRange f g (fun _ _ => exec_drw_of_outOfRange) (fun _ => exec_drw_of_inRange) rfl
  | ldB x =>
    exact exec_mapHidden_of_outOfRange f g (fun _ _ => exec_ldB_of_outOfRange) (fun _ => exec_ldB_of_inRange) rfl
  | storeRegs x =>
    exact exec_mapHidden_of_outOfRange f g (fun _ _ => exec_storeRegs_of_outOfRange)
      (fun _ => exec_storeRegs_of_inRange)
      (congrArg State.advance (bumpI_mapHidden f g (s.storeBytes (s.effAddr 0) (s.regBlock x)) x))
  | loadRegs x =>
    exact exec_mapHidden_of_outOfRange f g (fun _ _ => exec_loadRegs_of_outOfRange)
      (fun _ => exec_loadRegs_of_inRange) (setAllV_bumpI_advance_mapHidden f g s (s.loadedRegs x) x)
  | jpV0 nnn =>
    rcases Nat.lt_or_ge 0xFFF (s.offsetTarget nnn) with habove | hinside
    · rw [exec_jpV0_of_above habove]
      exact exec_jpV0_of_above (s := s.mapHidden f g) habove
    · rw [exec_jpV0_of_inside hinside]
      exact exec_jpV0_of_inside (s := s.mapHidden f g) hinside
  | ldVxK x =>
    cases hkey : s.lowestKey with
    | none =>
      rw [exec_ldVxK_of_no_key hkey]
      exact exec_ldVxK_of_no_key (s := s.mapHidden f g) hkey
    | some k =>
      rw [exec_ldVxK_of_key hkey]
      exact exec_ldVxK_of_key (s := s.mapHidden f g) hkey
  | orReg | andReg | xorReg =>
    exact congrArg (Host.Outcome.next ·.advance) (writeLogicResult_mapHidden f g s _ _)
  | seImm | sneImm | seReg | sneReg | skp | sknp => exact congrArg Host.Outcome.next (skipIf_mapHidden f g s _)
  | cls | jp | ldImm | addImm | ldReg | addReg | subReg | shr | subnReg | shl | ldI | rnd | ldVxDt | ldDtVx | addI
  | ldF =>
    rfl

end

/-! ## From the instructions to the step -/

/-- Two states that halt and fetch alike step to related states when every raise and every instruction relates them. -/
theorem step_related {s' : State} {R : State → State → Prop} (hhalted : s'.halted = s.halted)
    (hfetch : s'.fetchDecode = s.fetchDecode) (hself : R s s')
    (hraise : ∀ k w a, R (s.raise k w a) (s'.raise k w a))
    (hexec : ∀ i t, exec i s = .next t → ∃ u, exec i s' = .next u ∧ R t u) (h : step s = .next t) :
    ∃ u, step s' = .next u ∧ R t u := by
  rcases step_cases h with ⟨hs, rfl⟩ | ⟨hs, a, hf, rfl⟩ | ⟨hs, w, hf, rfl⟩ | ⟨hs, i, hf, hi⟩
  · exact ⟨s', step_of_halted (hhalted.trans hs), hself⟩
  · rw [step_of_running (hhalted.trans hs), hfetch, hf]
    exact ⟨_, rfl, hraise ..⟩
  · rw [step_of_running (hhalted.trans hs), hfetch, hf]
    exact ⟨_, rfl, hraise ..⟩
  · rw [step_of_running (hhalted.trans hs), hfetch, hf]
    exact hexec i t hi

/-! ## The sound timer -/

theorem push_setSt (s : State) (b : Byte) (w : Word16) : (s.setSt b).push w = (s.push w).map (State.setSt · b) := by
  rcases s.push_cases w with ⟨hfree, hpush⟩ | ⟨hfull, hpush⟩
  · rw [hpush]
    exact dif_pos hfree
  · rw [hpush]
    exact dif_neg (by simp [hfull])

theorem pop_setSt (s : State) (b : Byte) : (s.setSt b).pop = s.pop.map fun p => (p.1, p.2.setSt b) := by
  rcases s.pop_cases with ⟨hpos, _, hpop⟩ | ⟨hempty, hpop⟩
  · rw [hpop]
    exact dif_pos hpos
  · rw [hpop]
    exact dif_neg (by simp [hempty])

/-- Every instruction but `FX18` commutes with a write of `ST`. -/
theorem exec_setSt (b : Byte) (hi : ∀ x, i ≠ .ldStVx x) (s : State) :
    exec i (s.setSt b) = mapNext (State.setSt · b) (exec i s) := by
  cases i with
  | ldStVx x => exact absurd rfl (hi x)
  | call nnn =>
    simp only [exec, execCall, State.setSt_pc, push_setSt]
    cases s.push (s.pc + 2#16) <;> rfl
  | ret =>
    simp only [exec, execRet, pop_setSt]
    cases s.pop <;> rfl
  | _ => exact exec_mapHidden (fun _ => b) id rfl s

theorem exec_setSt_related (b : Byte) (h : exec i s = .next t) :
    ∃ u, exec i (s.setSt b) = .next u ∧ u = t.setSt u.st := by
  by_cases hi : ∀ x, i ≠ .ldStVx x
  · exact ⟨t.setSt b, by rw [exec_setSt b hi, h]; rfl, rfl⟩
  · obtain ⟨x, hx⟩ := not_forall.mp hi
    cases not_not.mp hx
    cases h
    exact ⟨_, rfl, rfl⟩

/-- Settles O14: no fetch reads `ST`, and every instruction commutes with a write of it but `FX18`, which replaces it. -/
theorem noStepDependsOnTheSoundTimer : Obligations.NoStepDependsOnTheSoundTimer := by
  unfold Obligations.NoStepDependsOnTheSoundTimer
  intro s t b h
  exact step_related (s := s) (s' := s.setSt b) (R := fun t u => u = t.setSt u.st) rfl rfl rfl (fun _ _ _ => rfl)
    (fun _ _ => exec_setSt_related b) h

/-! ## The stale stack entries (D9) -/

/-- `u` is `t` but for stack entries that are not valid. -/
def SameButStale (t u : State) : Prop :=
  u = { t with stack := u.stack } ∧ ∀ j : Fin 16, j.val < t.sp.val → u.getStack j = t.getStack j

theorem not_writes_stack_of_usesHidden (hi : usesHidden i = false) (s : State) :
    ¬ writes i s .sp ∧ ∀ j, ¬ writes i s (.stack j) := by
  cases i with
  | call | ret | ldStVx => cases hi
  | _ => simp [writes]

/-- An instruction that does not use the stack leaves it. -/
theorem exec_stack_of_not_usesHidden (hi : usesHidden i = false) (h : exec i s = .next t) :
    t.sp = s.sp ∧ ∀ j, t.getStack j = s.getStack j := by
  obtain ⟨hsp, hstack⟩ := not_writes_stack_of_usesHidden hi s
  rcases exec_frame_or_raisedBy h with hframe | ⟨k, a, -, -, rfl⟩
  · exact ⟨hframe .sp (by simp [hsp]), fun j => hframe (.stack j) (by simp [hstack])⟩
  · exact ⟨rfl, fun j => rfl⟩

section

variable {st' : Vector Word16 16} (hst : ∀ j : Fin 16, j.val < s.sp.val → st'[j] = s.getStack j)

include hst

theorem call_sameButStale {nnn : Addr12} (h : exec (.call nnn) s = .next t) :
    ∃ u, exec (.call nnn) { s with stack := st' } = .next u ∧ SameButStale t u := by
  rcases s.push_cases (s.pc + 2#16) with ⟨hfree, hpush⟩ | ⟨hfull, hpush⟩
  · have hpush' : State.push { s with stack := st' } (s.pc + 2#16) = some _ := dif_pos hfree
    cases h.symm.trans (exec_call_of_push hpush)
    refine ⟨_, exec_call_of_push hpush', rfl, fun j hj => ?_⟩
    refine (push_getStack hpush' j).trans (Eq.trans ?_ (push_getStack hpush j).symm)
    split
    next => rfl
    next hne => exact hst j (Nat.lt_of_le_of_ne (Nat.le_of_lt_succ hj) hne)
  · have hpush' : State.push { s with stack := st' } (s.pc + 2#16) = none := dif_neg (by simp [hfull])
    cases h.symm.trans (exec_call_of_full hpush)
    exact ⟨_, exec_call_of_full hpush', rfl, hst⟩

theorem ret_sameButStale (h : exec .ret s = .next t) :
    ∃ u, exec .ret { s with stack := st' } = .next u ∧ SameButStale t u := by
  rcases s.pop_cases with ⟨hpos, hj, hpop⟩ | ⟨hempty, hpop⟩
  · have hpop' : State.pop { s with stack := st' } = some (st'[s.sp.val - 1], _) := dif_pos hpos
    have htop : st'[s.sp.val - 1] = s.stack[s.sp.val - 1] := hst ⟨s.sp.val - 1, hj⟩ (Nat.sub_one_lt_of_lt hpos)
    cases h.symm.trans (exec_ret_of_pop hpop)
    refine ⟨_, exec_ret_of_pop hpop', by rw [htop]; rfl, fun j hlt => hst j ?_⟩
    exact Nat.lt_of_lt_of_le hlt (Nat.sub_le _ _)
  · have hpop' : State.pop { s with stack := st' } = none := dif_neg (by simp [hempty])
    cases h.symm.trans (exec_ret_of_empty hpop)
    exact ⟨_, exec_ret_of_empty hpop', rfl, hst⟩

theorem exec_sameButStale (h : exec i s = .next t) :
    ∃ u, exec i { s with stack := st' } = .next u ∧ SameButStale t u := by
  cases hi : usesHidden i with
  | false =>
    have hmap := exec_mapHidden id (fun _ => st') hi s
    rw [h] at hmap
    obtain ⟨hsp, hstack⟩ := exec_stack_of_not_usesHidden hi h
    exact ⟨_, hmap, rfl, fun j hj => (hst j (hsp ▸ hj)).trans (hstack j).symm⟩
  | true =>
    cases i with
    | call nnn => exact call_sameButStale hst h
    | ret => exact ret_sameButStale hst h
    | ldStVx x => cases h; exact ⟨_, rfl, rfl, hst⟩
    | _ => cases hi

end

/-- Settles O15: the two states fetch alike, and every instruction keeps them equal but for stale entries: a push
overwrites the first of them, a pop reads the last entry that is not. -/
theorem noStepDependsOnStaleStackEntries : Obligations.NoStepDependsOnStaleStackEntries := by
  unfold Obligations.NoStepDependsOnStaleStackEntries
  intro s t st' hst h
  exact step_related (s := s) (s' := { s with stack := st' }) (R := SameButStale) rfl rfl ⟨rfl, hst⟩
    (fun _ _ _ => ⟨rfl, hst⟩) (fun _ _ => exec_sameButStale hst) h

end Sys2Proof.Machine
end

section
/-! PROOFS. The invariant (spec 10_state.md R29): it holds at reset, every step keeps it, and so does every event. -/

namespace Sys2Proof.Machine

variable {i : Instr} {s t : State}

/-! ## What the invariant speaks of -/

/-- The invariant speaks of `PC`, the stack and memory only. -/
theorem inv_congr (h : s.Inv) (hpc : t.pc = s.pc) (hsp : t.sp = s.sp) (hstack : t.stack = s.stack)
    (hmem : t.mem = s.mem) : t.Inv := by
  refine ⟨hpc ▸ h.pcBound, fun j hj => ?_, hmem ▸ h.memWf⟩
  have hentry := h.stackOk j (hsp ▸ hj)
  simpa only [State.getStack, hstack] using hentry

theorem inv_setPc {w : Word16} (h : s.Inv) (hw : w.toNat ≤ 0x1002) : (s.setPc w).Inv := ⟨hw, h.stackOk, h.memWf⟩

theorem inv_advance (h : s.Inv) (hpc : s.pc.toNat ≤ 0xFFE) : s.advance.Inv := by
  refine inv_setPc h ?_
  rw [BitVec.toNat_add, BitVec.toNat_ofNat]
  omega

/-- From a `PC` that a fetch can use, a skip reaches 0x1002 at most (R29 c). -/
theorem inv_skipIf (h : s.Inv) (hpc : s.pc.toNat ≤ 0xFFE) (c : Bool) : (s.skipIf c).Inv := by
  rw [State.skipIf_eq]
  refine inv_setPc h ?_
  cases c <;> simp only [BitVec.toNat_add, if_true, Bool.false_eq_true, if_false, BitVec.toNat_ofNat] <;> omega

theorem inv_raise (h : s.Inv) (k : FaultKind) (w : Word16) (a : Nat) : (s.raise k w a).Inv :=
  inv_congr h rfl rfl rfl rfl

theorem inv_storeBytes {a : Nat} {bs : List Byte} (h : s.Inv) (hin : a + bs.length ≤ 0x1000) :
    (s.storeBytes a bs).Inv :=
  ⟨h.pcBound, h.stackOk, Memory.wf_writeList bs s.mem a h.memWf hin⟩

theorem inv_setAllV (h : s.Inv) (vs : Vector Byte 16) : (s.setAllV vs).Inv := inv_congr h rfl rfl rfl rfl

theorem inv_bumpI_advance (h : s.Inv) (hpc : s.pc.toNat ≤ 0xFFE) (x : Reg) : (s.bumpI x).advance.Inv := by
  rw [State.bumpI_eq]
  exact inv_advance (inv_congr h rfl rfl rfl rfl) hpc

theorem inv_writeLogicResult (h : s.Inv) (x : Reg) (r : Byte) : (s.writeLogicResult x r).Inv := by
  rw [State.writeLogicResult_eq]
  split <;> exact inv_congr h rfl rfl rfl rfl

theorem inv_push {w : Word16} (h : s.Inv) (hw : w.toNat ≤ 0x1000) (hpush : s.push w = some t) : t.Inv := by
  refine ⟨?_, fun j hj => ?_, ?_⟩
  · rw [frame_push hpush .pc (by simp)]
    exact h.pcBound
  · rw [push_getStack hpush j]
    split
    next => exact hw
    next hne =>
      have hsp := push_sp hpush
      exact h.stackOk j (by omega)
  · obtain ⟨_, rfl⟩ := push_eq_some hpush
    exact h.memWf

/-- A return jumps to a valid entry, and leaves the entries below it valid. -/
theorem inv_pop {w : Word16} (h : s.Inv) (hpop : s.pop = some (w, t)) : t.Inv ∧ w.toNat ≤ 0x1000 := by
  obtain ⟨hpos, hj, rfl, rfl⟩ := pop_eq_some hpop
  exact ⟨⟨h.pcBound, fun j hlt => h.stackOk j (Nat.lt_of_lt_of_le hlt (Nat.sub_le _ _)), h.memWf⟩,
    h.stackOk ⟨_, hj⟩ (Nat.sub_one_lt_of_lt hpos)⟩

theorem inv_rndWith (h : s.Inv) (hpc : s.pc.toNat ≤ 0xFFE) (r : Byte) (x : Reg) (nn : Byte) : (rndWith r x nn s).Inv :=
  inv_congr (inv_advance (s := s.setV x (r &&& nn)) (inv_congr h rfl rfl rfl rfl) hpc) rfl rfl rfl rfl

/-! ## Every step -/

theorem inv_of_raisedBy (h : s.Inv) (hraised : RaisedBy i s t) : t.Inv := by
  obtain ⟨k, a, -, -, rfl⟩ := hraised
  exact inv_raise h k _ a

/-- An instruction that a fetch can reach keeps the invariant. -/
theorem inv_exec (h : s.Inv) (hpc : s.pc.toNat ≤ 0xFFE) (hexec : exec i s = .next t) : t.Inv := by
  have hjump (nnn : Addr12) : (addrOperand nnn).toNat ≤ 0x1002 := by rw [toNat_addrOperand]; omega
  cases i with
  | jp nnn => cases hexec; exact inv_setPc h (hjump nnn)
  | jpV0 nnn =>
    rcases exec_jpV0_cases hexec with hraised | ⟨hin, rfl⟩
    · exact inv_of_raisedBy h hraised
    · exact inv_setPc h (by rw [BitVec.toNat_ofNat]; omega)
  | call nnn =>
    rcases exec_call_cases hexec with hraised | ⟨u, hpush, rfl⟩
    · exact inv_of_raisedBy h hraised
    · exact inv_setPc (inv_push h (by rw [BitVec.toNat_add, BitVec.toNat_ofNat]; omega) hpush) (hjump nnn)
  | ret =>
    rcases exec_ret_cases hexec with hraised | ⟨w, u, hpop, rfl⟩
    · exact inv_of_raisedBy h hraised
    · obtain ⟨hu, hw⟩ := inv_pop h hpop
      exact inv_setPc hu (by omega)
  | ldVxK x =>
    rcases exec_ldVxK_cases hexec with rfl | ⟨k, rfl⟩
    · exact h
    · exact inv_advance (inv_congr h rfl rfl rfl rfl) hpc
  | drw x y n =>
    rcases exec_drw_cases hexec with hraised | ⟨-, rfl⟩
    · exact inv_of_raisedBy h hraised
    · exact inv_advance (inv_congr h rfl rfl rfl rfl) hpc
  | ldB x =>
    rcases exec_ldB_cases hexec with hraised | ⟨hin, rfl⟩
    · exact inv_of_raisedBy h hraised
    · exact inv_advance (inv_storeBytes h hin) hpc
  | storeRegs x =>
    rcases exec_storeRegs_cases hexec with hraised | ⟨hin, rfl⟩
    · exact inv_of_raisedBy h hraised
    · have hsize : s.effAddr 0 + (s.regBlock x).length ≤ 0x1000 := by rw [State.length_regBlock]; exact hin
      exact inv_bumpI_advance (inv_storeBytes h hsize) hpc x
  | loadRegs x =>
    rcases exec_loadRegs_cases hexec with hraised | ⟨-, rfl⟩
    · exact inv_of_raisedBy h hraised
    · exact inv_bumpI_advance (inv_setAllV h _) (by rw [State.setAllV_pc]; exact hpc) x
  | seImm | sneImm | seReg | sneReg | skp | sknp => cases hexec; exact inv_skipIf h hpc _
  | orReg | andReg | xorReg =>
    cases hexec
    exact inv_advance (inv_writeLogicResult h _ _) (by rw [State.writeLogicResult_eq]; split <;> exact hpc)
  | rnd x nn => cases hexec; exact inv_rndWith h hpc _ x nn
  | cls | ldImm | addImm | ldReg | addReg | subReg | shr | subnReg | shl | ldI | addI | ldF | ldVxDt | ldDtVx
  | ldStVx =>
    cases hexec
    exact inv_advance (inv_congr h rfl rfl rfl rfl) hpc

theorem inv_step (h : s.Inv) (hstep : step s = .next t) : t.Inv := by
  rcases step_cases hstep with ⟨-, rfl⟩ | ⟨-, a, -, rfl⟩ | ⟨-, w, -, rfl⟩ | ⟨-, i, hfetch, hexec⟩
  · exact h
  · exact inv_raise h _ _ a
  · exact inv_raise h _ w 0
  · exact inv_exec h (fetchDecode_instr hfetch).1 hexec

/-- Settles O59: a step halts, raises, or runs an instruction from a `PC` of at most 0xFFE, from which the furthest skip
reaches 0x1002 and a call pushes at most 0x1000. -/
theorem everyStepKeepsTheInvariant : Obligations.EveryStepKeepsTheInvariant := by
  unfold Obligations.EveryStepKeepsTheInvariant
  exact fun s t => inv_step

/-! ## Every event -/

theorem inv_reset : State.reset.Inv := ⟨by decide, fun j hj => absurd hj (Nat.not_lt_zero _), Memory.wf_reset⟩

/-- Settles O58: no stack entry is valid, and memory lists nothing. -/
theorem resetMeetsTheInvariant : Obligations.ResetMeetsTheInvariant := by
  unfold Obligations.ResetMeetsTheInvariant
  exact inv_reset

theorem inv_tick (h : s.Inv) : s.tick.Inv := by
  unfold State.tick
  split
  · exact h
  · exact inv_congr h rfl rfl rfl rfl

theorem inv_after_step (h : s.Inv) (r : Byte) : (s.after (.step r)).Inv := by
  show (s.landed (s.stepWith r)).Inv
  by_cases hrnd : ∃ x nn, s.fetchDecode = .instr (.rnd x nn)
  · obtain ⟨x, nn, hfetch⟩ := hrnd
    cases hs : s.halted with
    | true => rw [stepWith_of_halted hs]; exact h
    | false => rw [stepWith_of_fetch_rnd hs hfetch]; exact inv_rndWith h (fetchDecode_instr hfetch).1 r x nn
  · obtain ⟨t, hstep⟩ := step_next s
    rw [stepWith_eq_step (fun x nn hfetch => hrnd ⟨x, nn, hfetch⟩), hstep]
    exact inv_step h hstep

theorem inv_after_loadImage (h : s.Inv) (bytes : List Byte) : (s.after (.loadImage bytes)).Inv := by
  show (s.landed (s.loadImage bytes)).Inv
  unfold State.loadImage
  split
  next hsize => exact inv_storeBytes h (by unfold Config.entry; unfold Config.imageMax at hsize; omega)
  next => exact h

theorem inv_after (h : s.Inv) (e : Event) : (s.after e).Inv := by
  cases e with
  | reset => exact inv_congr inv_reset rfl rfl rfl rfl
  | loadImage bytes => exact inv_after_loadImage h bytes
  | setKeys k => exact inv_congr h rfl rfl rfl rfl
  | step r => exact inv_after_step h r
  | tick => exact inv_tick h

theorem inv_afterAll (es : List Event) (h : s.Inv) : (s.afterAll es).Inv := by
  induction es generalizing s with
  | nil => exact h
  | cons e es ih => exact ih (inv_after h e)

/-- Settles O60: a legal sequence begins with `Reset`, and every event keeps the invariant. -/
theorem everyReachableStateMeetsTheInvariant : Obligations.EveryReachableStateMeetsTheInvariant := by
  unfold Obligations.EveryReachableStateMeetsTheInvariant
  intro s es hlegal
  cases es with
  | nil => cases hlegal
  | cons e es =>
    cases e with
    | reset => exact inv_afterAll es (inv_congr inv_reset rfl rfl rfl rfl)
    | _ => cases hlegal

end Sys2Proof.Machine
end

section
/-! PROOFS. Jumps through `V[0]`, calls and returns (spec 40_step_and_control_flow.md R83 to R86). -/

namespace Sys2Proof.Machine

variable {s t : State}

/-- Settles O18: the range of the sum picks the branch; 16 bits hold it in range and 17 bits hold it out of range. -/
theorem jumpWithOffset : Obligations.JumpWithOffset := by
  unfold Obligations.JumpWithOffset
  intro nnn s
  refine ⟨fun hin => ⟨_, exec_jpV0_of_inside hin, ?_, frame_setPc s _⟩,
    fun habove => ⟨_, exec_jpV0_of_above habove, ?_⟩⟩
  · show (BitVec.ofNat 16 (s.offsetTarget nnn)).toNat = s.offsetTarget nnn
    rw [BitVec.toNat_ofNat, Nat.mod_eq_of_lt]
    unfold State.offsetTarget
    omega
  · exact raised_raise s _ _ (s.offsetTarget nnn) (by unfold State.offsetTarget; omega)

/-! ## Calls and returns -/

theorem push_of_free {w : Word16} (h : s.sp.val < 16) : ∃ t, s.push w = some t := ⟨_, dif_pos h⟩

theorem pop_of_valid {j : Fin 16} (h : s.sp.val = j.val + 1) :
    ∃ t, s.pop = some (s.getStack j, t) ∧ t.sp.val = j.val := by
  have htop : s.sp.val - 1 = j.val := by omega
  rcases s.pop_cases with ⟨_, hj, hpop⟩ | ⟨hempty, -⟩
  · have hentry : s.stack[s.sp.val - 1] = s.getStack j := by simp only [State.getStack, htop, Fin.getElem_fin]
    exact ⟨_, hentry ▸ hpop, htop⟩
  · omega

/-- What a call with an entry free does (R83). -/
theorem exec_call_of_free (nnn : Addr12) {j : Fin 16} (h : s.sp.val = j.val) :
    ∃ t, exec (.call nnn) s = .next t ∧ t.getStack j = s.pc + 2#16 ∧ t.sp.val = s.sp.val + 1 ∧ t.pc.toNat = nnn.toNat ∧
      Frame s t (fun p => p = .pc ∨ p = .sp ∨ p = .stack j) := by
  obtain ⟨u, hpush⟩ := push_of_free (w := s.pc + 2#16) (h ▸ j.isLt)
  have hentry : u.getStack j = s.pc + 2#16 := (push_getStack hpush j).trans (if_pos h.symm)
  have hsp : u.sp.val = s.sp.val + 1 := push_sp hpush
  refine ⟨u.setPc (addrOperand nnn), exec_call_of_push hpush, hentry, hsp, toNat_addrOperand nnn, ?_⟩
  refine ((frame_push hpush).trans (frame_setPc u _)).mono fun p hp => ?_
  rcases hp with (hp | ⟨j', hj', rfl⟩) | hp
  · exact .inr (.inl hp)
  · exact .inr (.inr (congrArg Part.stack (Fin.ext (hj'.trans h))))
  · exact .inl hp

/-- What a return with an entry valid does (R84). -/
theorem exec_ret_of_valid {j : Fin 16} (h : s.sp.val = j.val + 1) :
    ∃ t, exec .ret s = .next t ∧ t.pc = s.getStack j ∧ t.sp.val = j.val ∧ Frame s t (fun p => p = .pc ∨ p = .sp) := by
  obtain ⟨u, hpop, hsp⟩ := pop_of_valid h
  exact ⟨_, exec_ret_of_pop hpop, rfl, hsp, ((frame_pop hpop).trans (frame_setPc u _)).mono fun _ => Or.symm⟩

/-- Settles O19: the push writes the one free entry that `SP` names. -/
theorem callPushesTheReturnAddress : Obligations.CallPushesTheReturnAddress := by
  unfold Obligations.CallPushesTheReturnAddress
  exact fun nnn s j h => exec_call_of_free nnn h

/-- Settles O20: the pop answers the last valid entry and writes none. -/
theorem returnLoadsTheTopEntry : Obligations.ReturnLoadsTheTopEntry := by
  unfold Obligations.ReturnLoadsTheTopEntry
  exact fun s j h => exec_ret_of_valid h

/-- Settles O22: the return pops the entry that the call pushed. -/
theorem callThenReturnRoundTrip : Obligations.CallThenReturnRoundTrip := by
  unfold Obligations.CallThenReturnRoundTrip
  intro nnn s j h
  obtain ⟨t, hcall, hentry, hsp, -, hframe⟩ := exec_call_of_free nnn h
  obtain ⟨u, hret, hpc, hsp', hframe'⟩ := exec_ret_of_valid (hsp.trans (congrArg (· + 1) h))
  have hspu : u.sp = s.sp := Fin.ext (hsp'.trans h.symm)
  refine ⟨t, u, hcall, hret, advances_of_pc (hpc.trans hentry), hspu, fun p hp => ?_⟩
  by_cases hpsp : p = .sp
  · exact hpsp ▸ hspu
  · exact (hframe.trans hframe') p (by tauto)

/-- Calls that fit push one entry each. -/
theorem execAll_calls (targets : List Addr12) (s : State) (h : s.sp.val + targets.length ≤ 16) :
    ∃ t, execAll (targets.map Instr.call) s = .next t ∧ t.sp.val = s.sp.val + targets.length := by
  induction targets generalizing s with
  | nil => exact ⟨s, rfl, rfl⟩
  | cons nnn targets ih =>
    rw [List.length_cons] at h
    obtain ⟨u, hcall, -, hsp, -⟩ := exec_call_of_free (s := s) nnn (j := ⟨s.sp.val, by omega⟩) rfl
    obtain ⟨t, hrest, hdepth⟩ := ih u (by omega)
    refine ⟨t, ?_, by rw [List.length_cons]; omega⟩
    simp only [List.map_cons, execAll, hcall]
    exact hrest

theorem exec_call_raised_of_full (nnn : Addr12) (h : s.sp.val = 16) :
    ∃ t, exec (.call nnn) s = .next t ∧ Raised s t .stackOverflow (encode (.call nnn)) 0 :=
  ⟨_, exec_call_of_full (dif_neg (by omega)), raised_raise s _ _ 0 (by decide)⟩

/-- Settles O23: by induction over the targets, and a push fails on a full stack. -/
theorem nestedCallsCountDepth : Obligations.NestedCallsCountDepth := by
  unfold Obligations.NestedCallsCountDepth
  intro targets s h
  obtain ⟨t, hcalls, hdepth⟩ := execAll_calls targets s h
  exact ⟨t, hcalls, hdepth, fun hfull nnn => exec_call_raised_of_full nnn (hdepth.trans hfull)⟩

end Sys2Proof.Machine
end

section
/-! PROOFS. Arithmetic, logic and the random byte (spec 41_alu.md R103 to R115). -/

namespace Sys2Proof.Machine

/-- Settles O26: one register write followed by the move of `PC`. -/
theorem addImmediateSetsNoFlag : Obligations.AddImmediateSetsNoFlag := by
  unfold Obligations.AddImmediateSetsNoFlag
  intro x nn s
  refine ⟨_, rfl, ?_, advances_advance rfl, frame_setV_advance s x _⟩
  exact (congrArg BitVec.toNat (getV_setV_same s x _)).trans (BitVec.toNat_add ..)

/-- What an instruction that writes its result by `writeLogicResult` leaves, under both values of the quirk (R103). -/
theorem writeLogicResult_spec (s : State) (x : Reg) (r : Byte) :
    Advances s (s.writeLogicResult x r).advance 2 ∧
      (s.quirks.logicResetsVf = false → (s.writeLogicResult x r).advance.getV x = r ∧
        Frame s (s.writeLogicResult x r).advance (onlyReg x)) ∧
      (s.quirks.logicResetsVf = true → (x ≠ flagReg → (s.writeLogicResult x r).advance.getV x = r) ∧
        (s.writeLogicResult x r).advance.getV flagReg = 0#8 ∧
        Frame s (s.writeLogicResult x r).advance (onlyRegFlag x)) := by
  have hpc : (s.writeLogicResult x r).pc = s.pc := by rw [State.writeLogicResult_eq]; split <;> rfl
  refine ⟨advances_advance hpc, fun hq => ?_, fun hq => ?_⟩
  · rw [State.writeLogicResult_eq, if_neg (by simp [hq])]
    exact ⟨getV_setV_same s x r, frame_setV_advance s x r⟩
  · rw [State.writeLogicResult_eq, if_pos hq]
    exact ⟨getV_writeResultFlag_of_ne_flag s r 0#8, getV_writeResultFlag_flag s x r 0#8,
      frame_writeResultFlag_advance s x r 0#8⟩

/-- Settles O27: the three instructions write their result the same way. -/
theorem bitwiseLogicAndItsQuirk : Obligations.BitwiseLogicAndItsQuirk := by
  unfold Obligations.BitwiseLogicAndItsQuirk
  rintro x y s i r (⟨rfl, rfl⟩ | ⟨rfl, rfl⟩ | ⟨rfl, rfl⟩) <;> exact ⟨_, rfl, writeLogicResult_spec s x _⟩

theorem notBorrowFlag_eq (a b : Byte) : notBorrowFlag a b = if a.toNat ≥ b.toNat then 1#8 else 0#8 := by
  simp [notBorrowFlag, flagByte]

theorem toNat_sub_byte (a b : Byte) : (a - b).toNat = (a.toNat + 256 - b.toNat) % 256 := by bv_omega

/-- What an instruction that writes a result and its flag leaves (R100). -/
theorem writeResultFlag_spec (s : State) (x : Reg) (r f : Byte) :
    (x ≠ flagReg → (s.writeResultFlag x r f).advance.getV x = r) ∧
      (s.writeResultFlag x r f).advance.getV flagReg = f ∧
      Advances s (s.writeResultFlag x r f).advance 2 ∧
      Frame s (s.writeResultFlag x r f).advance (onlyRegFlag x) :=
  ⟨getV_writeResultFlag_of_ne_flag s r f, getV_writeResultFlag_flag s x r f, advances_advance rfl,
    frame_writeResultFlag_advance s x r f⟩

/-- The result of a subtraction and its flag, whichever operand is taken from which. -/
theorem writeDifference_spec (s : State) (x : Reg) (a b : Byte) :
    (x ≠ flagReg →
        ((s.writeResultFlag x (a - b) (notBorrowFlag a b)).advance.getV x).toNat = (a.toNat + 256 - b.toNat) % 256) ∧
      (s.writeResultFlag x (a - b) (notBorrowFlag a b)).advance.getV flagReg =
        (if a.toNat ≥ b.toNat then 1#8 else 0#8) ∧
      Advances s (s.writeResultFlag x (a - b) (notBorrowFlag a b)).advance 2 ∧
      Frame s (s.writeResultFlag x (a - b) (notBorrowFlag a b)).advance (onlyRegFlag x) := by
  obtain ⟨hresult, hflag, hpc, hframe⟩ := writeResultFlag_spec s x (a - b) (notBorrowFlag a b)
  exact ⟨fun hx => (congrArg BitVec.toNat (hresult hx)).trans (toNat_sub_byte a b), hflag.trans (notBorrowFlag_eq a b),
    hpc, hframe⟩

/-- Settles O29: the two subtractions differ in the order of their operands only. -/
theorem subtractionsSetNotBorrow : Obligations.SubtractionsSetNotBorrow := by
  unfold Obligations.SubtractionsSetNotBorrow
  intro x y s
  exact ⟨⟨_, rfl, writeDifference_spec s x _ _⟩, ⟨_, rfl, writeDifference_spec s x _ _⟩⟩

theorem toNat_flagByte (c : Bool) : (flagByte c).toNat = c.toNat := by cases c <;> rfl

theorem toNat_shiftedRightFlag (b : Byte) : (shiftedRightFlag b).toNat = b.toNat % 2 := by
  rw [shiftedRightFlag, toNat_flagByte, BitVec.getLsbD, Nat.toNat_testBit, Nat.pow_zero, Nat.div_one]

theorem toNat_shiftedLeftFlag (b : Byte) : (shiftedLeftFlag b).toNat = b.toNat / 128 := by
  rw [shiftedLeftFlag, toNat_flagByte, BitVec.getLsbD, Nat.toNat_testBit]
  omega

theorem toNat_shiftLeft_one_byte (b : Byte) : (b <<< 1).toNat = b.toNat * 2 % 256 := by
  rw [BitVec.toNat_shiftLeft, Nat.shiftLeft_eq]

theorem exec_shr_of_source {s : State} {x y : Reg} {b : Byte} (h : s.shiftSource x y = b) :
    exec (.shr x y) s = .next (s.writeResultFlag x (b >>> 1) (shiftedRightFlag b)).advance := h ▸ rfl

theorem exec_shl_of_source {s : State} {x y : Reg} {b : Byte} (h : s.shiftSource x y = b) :
    exec (.shl x y) s = .next (s.writeResultFlag x (b <<< 1) (shiftedLeftFlag b)).advance := h ▸ rfl

/-- Settles O30: each is one write of a result and its flag, and a shift by one is a halving or a doubling. -/
theorem shiftsSetTheBitShiftedOut : Obligations.ShiftsSetTheBitShiftedOut := by
  unfold Obligations.ShiftsSetTheBitShiftedOut
  intro x y s b hb
  obtain ⟨hright, hrightFlag, hrightPc, hrightFrame⟩ := writeResultFlag_spec s x (b >>> 1) (shiftedRightFlag b)
  obtain ⟨hleft, hleftFlag, hleftPc, hleftFrame⟩ := writeResultFlag_spec s x (b <<< 1) (shiftedLeftFlag b)
  refine ⟨⟨_, exec_shr_of_source hb.symm, fun hx => ?_, ?_, hrightPc, hrightFrame⟩,
    ⟨_, exec_shl_of_source hb.symm, fun hx => ?_, ?_, hleftPc, hleftFrame⟩⟩
  · rw [hright hx, BitVec.toNat_ushiftRight, Nat.shiftRight_one]
  · rw [hrightFlag, toNat_shiftedRightFlag]
  · rw [hleft hx, toNat_shiftLeft_one_byte]
  · rw [hleftFlag, toNat_shiftedLeftFlag]

/-- Settles O31: `exec` hands the next free byte to the one function that stores a byte under the mask. -/
theorem randomByteUnderMask : Obligations.RandomByteUnderMask := by
  unfold Obligations.RandomByteUnderMask
  exact fun x nn s =>
    ⟨rfl, fun r => ⟨getV_setV_same s x (r &&& nn), advances_of_pc rfl, frame_rndWith r x nn s⟩⟩

end Sys2Proof.Machine
end

section
/-! PROOFS. `I` and memory (spec 42_index_memory.md R121 to R126): the moves of `I`, the digits and the blocks. -/

namespace Sys2Proof.Machine

variable {s t : State}

/-! ## The low nibble and the moves of `I` -/

theorem toNat_lowNibble (b : Byte) : (b &&& 0x0F#8).toNat = b.toNat % 16 :=
  (BitVec.toNat_and ..).trans (Nat.and_two_pow_sub_one_eq_mod b.toNat 4)

theorem toNat_glyphAddr (b : Byte) : (glyphAddr b).toNat = 5 * (b.toNat % 16) := by
  rw [glyphAddr, toNat_lowNibble, BitVec.toNat_ofNat, fontBase, glyphStride]
  omega

/-- Settles O33: each is one write of `I`, the first of a sum of 16 bits, the second of the glyph's address. -/
theorem addToIndexAndGlyphAddress : Obligations.AddToIndexAndGlyphAddress := by
  unfold Obligations.AddToIndexAndGlyphAddress
  intro x s
  have hsum : (s.i + (s.getV x).setWidth 16).toNat = (s.i.toNat + (s.getV x).toNat) % 65536 := by
    rw [BitVec.toNat_add, BitVec.toNat_setWidth_of_le (by decide)]
  have hglyph := toNat_glyphAddr (s.getV x)
  exact ⟨⟨_, rfl, hsum, advances_advance rfl, frame_setI_advance s _⟩,
    ⟨_, rfl, hglyph, hglyph.le.trans (by omega), advances_advance rfl, frame_setI_advance s _⟩⟩

theorem bumpI_pc (s : State) (x : Reg) : (s.bumpI x).pc = s.pc := by rw [State.bumpI_eq]; rfl

theorem bumpI_getV (s : State) (x y : Reg) : (s.bumpI x).getV y = s.getV y := by rw [State.bumpI_eq]; rfl

theorem bumpI_readByte (s : State) (x : Reg) (a : Nat) : (s.bumpI x).readByte a = s.readByte a := by
  rw [State.bumpI_eq]; rfl

/-- A block in range moves `I` without wrap (R125). -/
theorem toNat_bumpI_i {x : Reg} (h : s.effAddr x.val ≤ 0xFFF) :
    (s.bumpI x).i.toNat = if s.quirks.loadStoreIncI = true then s.i.toNat + x.val + 1 else s.i.toNat := by
  unfold State.effAddr at h
  rw [State.bumpI_eq, State.setI_i]
  split
  · rw [BitVec.toNat_add, BitVec.toNat_ofNat]; omega
  · rfl

/-! ## Decimal digits -/

/-- Settles O34: the digits are a block of three bytes. -/
theorem storeDecimalDigits : Obligations.StoreDecimalDigits := by
  unfold Obligations.StoreDecimalDigits
  intro x s hin
  have hrange : outOfRange s.i.toNat 3 = none := (outOfRange_eq_none ..).mpr (.inr (Nat.succ_le_succ hin))
  have hb := (s.getV x).isLt
  have hdigit (k : Nat) (hk : k < 3) :
      (s.storeBytes (s.effAddr 0) (bcdDigits (s.getV x))).readByte (s.effAddr k) = (bcdDigits (s.getV x))[k] :=
    readByte_storeBytes_inside s (s.effAddr 0) k (bcdDigits (s.getV x)) hk
  refine ⟨_, exec_ldB_of_inRange hrange, (congrArg BitVec.toNat (hdigit 0 (by decide))).trans ?_,
    (congrArg BitVec.toNat (hdigit 1 (by decide))).trans ?_, (congrArg BitVec.toNat (hdigit 2 (by decide))).trans ?_,
    advances_advance rfl, (frame_storeBytes_advance s _ _).mono fun p hp => ?_⟩
  · exact Nat.mod_eq_of_lt (by omega)
  · exact Nat.mod_eq_of_lt (by omega)
  · exact Nat.mod_eq_of_lt (by omega)
  · rcases hp with hp | ⟨k, hk, rfl⟩
    · exact .inl hp
    · have : k = 0 ∨ k = 1 ∨ k = 2 := by
        have hlen : (bcdDigits (s.getV x)).length = 3 := rfl
        omega
      rcases this with rfl | rfl | rfl
      · exact .inr (.inl rfl)
      · exact .inr (.inr (.inl rfl))
      · exact .inr (.inr (.inr rfl))

/-! ## Blocks of registers -/

theorem outOfRange_block {x : Reg} (h : s.effAddr x.val ≤ 0xFFF) : outOfRange s.i.toNat (x.val + 1) = none :=
  (outOfRange_eq_none ..).mpr (.inr (Nat.succ_le_succ h))

/-- The state after a block store, read byte by byte. -/
theorem readByte_stored (s : State) {x k : Reg} (hk : k ≤ x) :
    ((s.storeBytes (s.effAddr 0) (s.regBlock x)).bumpI x).advance.readByte (s.effAddr k.val) = s.getV k := by
  have hbyte : (s.storeBytes (s.effAddr 0) (s.regBlock x)).readByte (s.effAddr 0 + k.val) = s.getV k := by
    rw [readByte_storeBytes, if_pos (Nat.le_add_right ..), Nat.add_sub_cancel_left, State.getElem?_regBlock, if_pos hk]
    rfl
  exact (bumpI_readByte ..).trans hbyte

/-- Settles O35: the block is one write of consecutive bytes, and `I` is moved after it. -/
theorem storeRegisterBlock : Obligations.StoreRegisterBlock := by
  unfold Obligations.StoreRegisterBlock
  intro x s hin
  refine ⟨_, exec_storeRegs_of_inRange (outOfRange_block hin), fun k hk => readByte_stored s hk,
    toNat_bumpI_i (s := s.storeBytes (s.effAddr 0) (s.regBlock x)) hin, advances_advance (bumpI_pc ..),
    (frame_storeRegs s x).mono fun p hp => ?_⟩
  rcases hp with hp | ⟨k, hk, hp⟩ | ⟨-, hp⟩
  · exact .inl hp
  · exact .inr (.inr ⟨⟨k, by omega⟩, hk, hp⟩)
  · exact .inr (.inl hp)

/-- What a write of all registers, then the move of `I` and of `PC`, leaves. -/
theorem setAllV_bumpI_advance_spec (vs : Vector Byte 16) {x : Reg} (h : s.effAddr x.val ≤ 0xFFF) :
    (∀ k : Reg, ((s.setAllV vs).bumpI x).advance.getV k = vs[k.val]) ∧
      ((s.setAllV vs).bumpI x).advance.i.toNat =
        (if s.quirks.loadStoreIncI = true then s.i.toNat + x.val + 1 else s.i.toNat) ∧
      Advances s ((s.setAllV vs).bumpI x).advance 2 :=
  ⟨fun k => bumpI_getV (s.setAllV vs) x k, toNat_bumpI_i (s := s.setAllV vs) h, advances_advance (bumpI_pc ..)⟩

/-- Settles O36: the registers are written at once, and `I` is moved after them. -/
theorem loadRegisterBlock : Obligations.LoadRegisterBlock := by
  unfold Obligations.LoadRegisterBlock
  intro x s hin
  obtain ⟨hregs, hi, hpc⟩ := setAllV_bumpI_advance_spec (s.loadedRegs x) hin
  refine ⟨_, exec_loadRegs_of_inRange (outOfRange_block hin), fun k hk => ?_, hi, hpc,
    (frame_loadRegs s x).mono fun p hp => ?_⟩
  · rw [hregs, s.getElem_loadedRegs, if_pos hk]
  · rcases hp with hp | hp | ⟨-, hp⟩
    · exact .inl hp
    · exact .inr (.inr hp)
    · exact .inr (.inl hp)

/-- Settles O38: the two bytes at `I` are the first two of the block, and a step from there decodes them. -/
theorem fetchSeesTheStore : Obligations.FetchSeesTheStore := by
  unfold Obligations.FetchSeesTheStore
  intro x s i hx hin hs hword
  refine ⟨_, exec_storeRegs_of_inRange (outOfRange_block hin), step_eq_exec ?_ ?_ ?_⟩
  · rw [State.bumpI_eq]
    exact hs
  · show s.i.toNat ≤ 0xFFE
    unfold State.effAddr at hin
    omega
  · have h0 := readByte_stored s (x := x) (k := 0) (Nat.zero_le _)
    have h1 := readByte_stored s (x := x) (k := 1) hx
    rw [← h0, ← h1] at hword
    exact hword

end Sys2Proof.Machine
end

section
/-! PROOFS. The sprite (spec 43_display.md R142 to R146): the pixels the blitter flips are those the sprite covers, each
once, so a draw flips exactly those and reports whether one was on. -/

namespace Sys2Proof.Machine

variable {s t : State}

/-! ## Where a sprite pixel lands (R143, R144) -/

/-- `p` is the place of the sprite pixel at column `x`, row `y`. -/
def LandsAt (wrap : Bool) (x y : Nat) (p : Pixel) : Prop :=
  if wrap then p.1.val = x % 64 ∧ p.2.val = y % 32 else p.1.val = x ∧ p.2.val = y

theorem landing_eq_some (wrap : Bool) (x y : Nat) (p : Pixel) : landing wrap x y = some p ↔ LandsAt wrap x y p := by
  obtain ⟨px, py⟩ := p
  unfold landing LandsAt
  cases wrap with
  | true => simp [Prod.ext_iff, Fin.ext_iff, eq_comm]
  | false =>
    have hx := px.isLt
    have hy := py.isLt
    by_cases h : x < 64 ∧ y < 32
    · simp [h, Prod.ext_iff, Fin.ext_iff, eq_comm]
    · rw [if_neg (by decide), dif_neg h, if_neg (by decide)]
      exact iff_of_false nofun fun ⟨hpx, hpy⟩ => h ⟨hpx ▸ hx, hpy ▸ hy⟩

/-- Two columns of one sprite, and two rows, are less than a screen apart, so they land on different pixels. -/
theorem landsAt_inj {wrap : Bool} {x0 y0 c c' r r' : Nat} {p : Pixel} (hc : c < 8) (hc' : c' < 8) (hr : r < 16)
    (hr' : r' < 16) (h : LandsAt wrap (x0 + c) (y0 + r) p) (h' : LandsAt wrap (x0 + c') (y0 + r') p) :
    c = c' ∧ r = r' := by
  unfold LandsAt at h h'
  cases wrap with
  | true =>
    simp only [if_true] at h h'
    omega
  | false =>
    simp only [Bool.false_eq_true, if_false] at h h'
    omega

theorem mem_rowPixels {wrap : Bool} {x0 y : Nat} {b : Byte} {p : Pixel} :
    p ∈ rowPixels wrap x0 y b ↔ ∃ c, c < 8 ∧ b.getLsbD (7 - c) = true ∧ LandsAt wrap (x0 + c) y p := by
  simp only [rowPixels, List.mem_filterMap, List.mem_range, ← landing_eq_some]
  refine exists_congr fun c => and_congr_right fun _ => ?_
  split
  next hbit => simp [hbit]
  next hbit => simp [hbit]

theorem mem_spritePixels {x y : Reg} {n : Nibble} {p : Pixel} : p ∈ s.spritePixels x y n ↔ s.Covers x y n p := by
  simp only [State.spritePixels, List.mem_flatMap, List.mem_range, mem_rowPixels, State.Covers, LandsAt]
  constructor
  · rintro ⟨r, hr, c, hc, hbit, hland⟩
    exact ⟨r, c, hr, hc, hbit, hland⟩
  · rintro ⟨r, c, hr, hc, hbit, hland⟩
    exact ⟨r, hr, c, hc, hbit, hland⟩

/-! ## No pixel is visited twice (R144) -/

theorem nodup_rowPixels {wrap : Bool} {x0 y0 r : Nat} (hr : r < 16) (b : Byte) :
    (rowPixels wrap x0 (y0 + r) b).Nodup := by
  refine List.pairwise_filterMap.mpr (List.nodup_range.imp_of_mem fun hc hc' hne p hp p' hp' => ?_)
  rintro rfl
  obtain ⟨-, hland⟩ := Option.ite_none_right_eq_some.mp hp
  obtain ⟨-, hland'⟩ := Option.ite_none_right_eq_some.mp hp'
  rw [landing_eq_some] at hland hland'
  exact hne (landsAt_inj (List.mem_range.mp hc) (List.mem_range.mp hc') hr hr hland hland').1

theorem disjoint_rowPixels {wrap : Bool} {x0 y0 r r' : Nat} (hr : r < 16) (hr' : r' < 16) (hne : r ≠ r') (b b' : Byte) :
    List.Disjoint (rowPixels wrap x0 (y0 + r) b) (rowPixels wrap x0 (y0 + r') b') := by
  intro p hp hp'
  obtain ⟨c, hc, -, hland⟩ := mem_rowPixels.mp hp
  obtain ⟨c', hc', -, hland'⟩ := mem_rowPixels.mp hp'
  exact hne (landsAt_inj hc hc' hr hr' hland hland').2

theorem nodup_spritePixels (x y : Reg) (n : Nibble) (s : State) : (s.spritePixels x y n).Nodup := by
  have hrow {r : Nat} (hr : r ∈ List.range n.toNat) : r < 16 := (List.mem_range.mp hr).trans n.isLt
  refine List.nodup_flatMap.mpr ⟨fun r hr => nodup_rowPixels (hrow hr) _, ?_⟩
  exact List.nodup_range.imp_of_mem fun hr hr' hne => disjoint_rowPixels (hrow hr) (hrow hr') hne _ _

/-- Settles O42: rows are disjoint, and the columns of one row differ. -/
theorem drawVisitsNoPixelTwice : Obligations.DrawVisitsNoPixelTwice := by
  unfold Obligations.DrawVisitsNoPixelTwice
  exact nodup_spritePixels

/-! ## What the blitter does to a list of pixels -/

theorem foldl_flip_pixel (ps : List Pixel) (hps : ps.Nodup) (b : Blit) (p : Pixel) :
    FrameBuffer.pixel (ps.foldl Blit.flip b).fb p =
      if p ∈ ps then !FrameBuffer.pixel b.fb p else FrameBuffer.pixel b.fb p := by
  induction ps generalizing b with
  | nil => rfl
  | cons q ps ih =>
    obtain ⟨hq, hps⟩ := List.nodup_cons.mp hps
    rw [List.foldl_cons, ih hps, Blit.flip]
    simp only [FrameBuffer.pixel_flip, List.mem_cons]
    by_cases hp : p = q
    · simp [hp, hq]
    · simp [hp]

theorem foldl_flip_hit (ps : List Pixel) (hps : ps.Nodup) (b : Blit) :
    (ps.foldl Blit.flip b).hit = true ↔ b.hit = true ∨ ∃ p ∈ ps, FrameBuffer.pixel b.fb p = true := by
  induction ps generalizing b with
  | nil => simp
  | cons q ps ih =>
    obtain ⟨hq, hps⟩ := List.nodup_cons.mp hps
    have hrest (p : Pixel) (hp : p ∈ ps) : FrameBuffer.pixel (b.flip q).fb p = FrameBuffer.pixel b.fb p :=
      (FrameBuffer.pixel_flip b.fb q p).trans (if_neg (ne_of_mem_of_not_mem hp hq))
    have hhit : (b.flip q).hit = true ↔ b.hit = true ∨ FrameBuffer.pixel b.fb q = true := by
      rw [Blit.flip, Bool.or_eq_true]
    rw [List.foldl_cons, ih hps, hhit, List.exists_mem_cons_iff, or_assoc]
    exact or_congr_right (or_congr_right (exists_congr fun p => and_congr_right fun hp => by rw [hrest p hp]))

/-! ## The draw -/

/-- What a draw leaves when its sprite bytes are in range (R143). -/
structure Drawn (s t : State) (x y : Reg) (n : Nibble) : Prop where
  flipped : ∀ p, s.Covers x y n p → t.pixel p = !s.pixel p
  kept : ∀ p, ¬ s.Covers x y n p → t.pixel p = s.pixel p
  flagOn : (∃ p, s.Covers x y n p ∧ s.pixel p = true) → t.getV flagReg = 1#8
  flagOff : (¬ ∃ p, s.Covers x y n p ∧ s.pixel p = true) → t.getV flagReg = 0#8
  advances : Advances s t 2
  frame : Frame s t (fun p => p = .pc ∨ p = .v flagReg ∨ ∃ q, p = .fb q)

theorem pixel_blit_sprite (x y : Reg) (n : Nibble) (s : State) (p : Pixel) :
    FrameBuffer.pixel (blit s.fb (s.spritePixels x y n)).fb p =
      if p ∈ s.spritePixels x y n then !s.pixel p else s.pixel p :=
  foldl_flip_pixel _ (nodup_spritePixels x y n s) _ p

theorem hit_blit_sprite (x y : Reg) (n : Nibble) (s : State) :
    (blit s.fb (s.spritePixels x y n)).hit = true ↔ ∃ p, s.Covers x y n p ∧ s.pixel p = true := by
  rw [blit, foldl_flip_hit _ (nodup_spritePixels x y n s)]
  simp only [mem_spritePixels, Bool.false_eq_true, false_or]
  rfl

theorem exec_drw_drawn (x y : Reg) {n : Nibble} (h : n.toNat = 0 ∨ s.i.toNat + n.toNat ≤ 0x1000) :
    ∃ t, exec (.drw x y n) s = .next t ∧ Drawn s t x y n := by
  have hpixel := pixel_blit_sprite x y n s
  have hhit := hit_blit_sprite x y n s
  refine ⟨_, exec_drw_of_inRange ((outOfRange_eq_none ..).mpr h),
    ⟨fun p hp => (hpixel p).trans (if_pos (mem_spritePixels.mpr hp)),
      fun p hp => (hpixel p).trans (if_neg fun hmem => hp (mem_spritePixels.mp hmem)),
      fun hon => (getV_setV_same ..).trans ?_, fun hoff => (getV_setV_same ..).trans ?_,
      advances_advance rfl, frame_drawn s _ _⟩⟩
  · rw [hhit.mpr hon]
    rfl
  · rw [Bool.eq_false_of_not_eq_true fun hon => hoff (hhit.mp hon)]
    rfl

/-- Settles O40: the blitter's list holds the covered pixels, each once. -/
theorem drawFlipsTheCoveredPixels : Obligations.DrawFlipsTheCoveredPixels := by
  unfold Obligations.DrawFlipsTheCoveredPixels
  intro x y n s h
  obtain ⟨t, ht, hdrawn⟩ := exec_drw_drawn x y h
  exact ⟨t, ht, hdrawn.flipped, hdrawn.kept, hdrawn.advances, hdrawn.frame⟩

/-- Settles O41: no pixel is flipped before it is tested, so each test reads the framebuffer from before the draw. -/
theorem drawReportsCollision : Obligations.DrawReportsCollision := by
  unfold Obligations.DrawReportsCollision
  intro x y n s h
  obtain ⟨t, ht, hdrawn⟩ := exec_drw_drawn x y h
  exact ⟨t, ht, hdrawn.flagOn, fun hall => hdrawn.flagOff fun ⟨p, hp, hon⟩ => by simp [hall p hp] at hon⟩

/-- Settles O44: a sprite of no rows covers no pixel. -/
theorem drawOfNoRows : Obligations.DrawOfNoRows := by
  unfold Obligations.DrawOfNoRows
  intro x y s
  obtain ⟨t, ht, hdrawn⟩ := exec_drw_drawn x y (n := 0x0#4) (s := s) (.inl rfl)
  have hnone (p : Pixel) : ¬ s.Covers x y 0x0#4 p := fun ⟨r, _, hr, _⟩ => Nat.not_lt_zero r hr
  refine ⟨t, ht, hdrawn.flagOff fun ⟨p, hp, _⟩ => hnone p hp, hdrawn.advances, fun part hpart => ?_⟩
  by_cases hfb : ∃ q, part = .fb q
  · obtain ⟨q, rfl⟩ := hfb
    exact hdrawn.kept q (hnone q)
  · exact hdrawn.frame part (by tauto)

/-- A draw leaves all that the sprite's place depends on, unless `X` or `Y` is the flag. -/
theorem covers_of_drawn {x y : Reg} {n : Nibble} (h : Drawn s t x y n) (hx : x ≠ flagReg) (hy : y ≠ flagReg)
    (p : Pixel) : t.Covers x y n p ↔ s.Covers x y n p := by
  have hvx : t.getV x = s.getV x := h.frame (.v x) (by simp [hx])
  have hvy : t.getV y = s.getV y := h.frame (.v y) (by simp [hy])
  have hi : t.i = s.i := h.frame .i (by simp)
  have hquirks : t.quirks = s.quirks := h.frame .quirks (by simp)
  have hmem (a : Nat) : t.readByte a = s.readByte a := h.frame (.mem a) (by simp)
  simp only [State.Covers, State.effAddr, hvx, hvy, hi, hquirks, hmem]

/-- Settles O43: the second draw covers the same pixels, so it flips each back, and it finds on those that the first
turned on. -/
theorem drawTwiceRestoresTheScreen : Obligations.DrawTwiceRestoresTheScreen := by
  unfold Obligations.DrawTwiceRestoresTheScreen
  intro x y n s hx hy h
  obtain ⟨t, ht, hfirst⟩ := exec_drw_drawn x y h
  have hi : t.i = s.i := hfirst.frame .i (by simp)
  obtain ⟨u, hu, hsecond⟩ := exec_drw_drawn (s := t) x y (n := n) (hi ▸ h)
  have hcovers := covers_of_drawn hfirst hx hy
  have hrestored (p : Pixel) : u.pixel p = s.pixel p := by
    by_cases hp : s.Covers x y n p
    · rw [hsecond.flipped p ((hcovers p).mpr hp), hfirst.flipped p hp, Bool.not_not]
    · rw [hsecond.kept p (fun hc => hp ((hcovers p).mp hc)), hfirst.kept p hp]
  have hturnedOn : (∃ p, t.Covers x y n p ∧ t.pixel p = true) ↔ ∃ p, s.pixel p = false ∧ t.pixel p = true := by
    refine exists_congr fun p => and_congr_left fun hon => ?_
    rw [hcovers p]
    by_cases hp : s.Covers x y n p
    · simpa [hp, hfirst.flipped p hp] using hon
    · simpa [hp, hfirst.kept p hp] using hon
  refine ⟨t, u, ht, hu, FrameBuffer.ext_pixel _ _ hrestored, ?_⟩
  rw [← hturnedOn]
  refine ⟨fun hflag => ?_, hsecond.flagOn⟩
  by_contra hoff
  rw [hsecond.flagOff hoff] at hflag
  exact absurd hflag (by decide)

end Sys2Proof.Machine
end

section
/-! PROOFS. The keypad and the timers (spec 44_keypad_timers.md R160 to R167, 60_exceptions.md R197). -/

namespace Sys2Proof.Machine

variable {s t : State}

/-! ## The key skips -/

theorem val_keyIndex (b : Byte) : (keyIndex b).val = b.toNat % 16 := by
  simp only [keyIndex, toNat_lowNibble, Nat.mod_mod]

theorem exec_skp_spec (x : Reg) {down : Bool} (h : s.keyDown (keyIndex (s.getV x)) = down) :
    ∃ t, exec (.skp x) s = .next t ∧ t.pc = s.pc + (if down = true then 4#16 else 2#16) ∧ Frame s t onlyPc :=
  ⟨s.skipIf down, by rw [← h]; rfl, by rw [State.skipIf_eq]; rfl, frame_skipIf s down⟩

theorem exec_sknp_spec (x : Reg) {down : Bool} (h : s.keyDown (keyIndex (s.getV x)) = down) :
    ∃ t, exec (.sknp x) s = .next t ∧ t.pc = s.pc + (if down = true then 2#16 else 4#16) ∧ Frame s t onlyPc :=
  ⟨s.skipIf !down, by rw [← h]; rfl, by rw [State.skipIf_eq]; cases down <;> rfl, frame_skipIf s _⟩

theorem advances_of_pc_ite {c : Prop} [Decidable c] {j k : Nat}
    (h : t.pc = s.pc + if c then BitVec.ofNat 16 j else BitVec.ofNat 16 k) : Advances s t (if c then j else k) :=
  advances_of_pc (h.trans (congrArg (s.pc + ·) (apply_ite (BitVec.ofNat 16) c j k).symm))

/-- Settles O46: each is `skipIf` of the state of the key that the low nibble names. -/
theorem keySkipsTestTheLatch : Obligations.KeySkipsTestTheLatch := by
  unfold Obligations.KeySkipsTestTheLatch
  intro x s k hk
  have hkey : s.keyDown (keyIndex (s.getV x)) = s.keys.getLsbD k.val :=
    congrArg s.keys.getLsbD ((val_keyIndex _).trans hk.symm)
  obtain ⟨t, ht, hpc, hframe⟩ := exec_skp_spec x hkey
  obtain ⟨u, hu, hpc', hframe'⟩ := exec_sknp_spec x hkey
  exact ⟨⟨t, ht, advances_of_pc_ite hpc, hframe⟩, ⟨u, hu, advances_of_pc_ite hpc', hframe'⟩⟩

/-- The key that a register tests after a write of it is named by the low nibble of what was written. -/
theorem keyDown_setV (s : State) (x : Reg) (b : Byte) :
    (s.setV x b).keyDown (keyIndex ((s.setV x b).getV x)) = s.keys.getLsbD (b &&& 0x0F#8).toNat := by
  rw [getV_setV_same, State.keyDown, State.setV_keys, val_keyIndex, toNat_lowNibble]

theorem lowNibble_idem (b : Byte) : b &&& 0x0F#8 &&& 0x0F#8 = b &&& 0x0F#8 := by
  rw [BitVec.and_assoc, BitVec.and_self]

/-- Settles O45: a byte and its low nibble name one key. -/
theorem keyIndexIsTheLowNibble : Obligations.KeyIndexIsTheLowNibble := by
  unfold Obligations.KeyIndexIsTheLowNibble
  intro x b s
  have hkey := keyDown_setV s x b
  have hkey' := keyDown_setV s x (b &&& 0x0F#8)
  rw [lowNibble_idem] at hkey'
  constructor
  · obtain ⟨t, ht, hpc, hframe⟩ := exec_skp_spec x hkey
    obtain ⟨u, hu, hpc', -⟩ := exec_skp_spec x hkey'
    exact ⟨t, u, ht, hu, hpc.trans hpc'.symm, advances_of_pc_ite hpc, hframe .fault nofun⟩
  · obtain ⟨t, ht, hpc, hframe⟩ := exec_sknp_spec x hkey
    obtain ⟨u, hu, hpc', -⟩ := exec_sknp_spec x hkey'
    exact ⟨t, u, ht, hu, hpc.trans hpc'.symm, advances_of_pc_ite hpc, hframe .fault nofun⟩

/-! ## The wait -/

theorem lowestKey_eq_none (h : ∀ k, s.keyDown k = false) : s.lowestKey = none := by
  rcases s.lowestKey_cases with ⟨k, -, hdown, -⟩ | ⟨hnone, -⟩
  · exact absurd hdown (by simp [h k])
  · exact hnone

theorem lowestKey_eq_some {k : Key} (hdown : s.keyDown k = true) (hlow : ∀ j, j < k → s.keyDown j = false) :
    s.lowestKey = some k := by
  rcases s.lowestKey_cases with ⟨k', hkey, hdown', hlow'⟩ | ⟨-, hnone⟩
  · rcases lt_trichotomy k k' with hlt | rfl | hgt
    · exact absurd hdown (by simp [hlow' k hlt])
    · exact hkey
    · exact absurd hdown' (by simp [hlow k' hgt])
  · exact absurd hdown (by simp [hnone k])

/-- Settles O47: the search finds no key, or the one below which none is down. -/
theorem waitForKey : Obligations.WaitForKey := by
  unfold Obligations.WaitForKey
  intro x s
  refine ⟨fun hnone => exec_ldVxK_of_no_key (lowestKey_eq_none hnone), fun k hdown hlow =>
    ⟨_, exec_ldVxK_of_key (lowestKey_eq_some hdown hlow), ?_, advances_advance rfl, frame_setV_advance s x _⟩⟩
  have hk := k.isLt
  refine (congrArg BitVec.toNat (getV_setV_same ..)).trans ?_
  rw [BitVec.toNat_ofNat]
  omega

/-! ## The timers -/

/-- Settles O49: one write of `ST` followed by the move of `PC`. -/
theorem soundTimerSet : Obligations.SoundTimerSet := by
  unfold Obligations.SoundTimerSet
  exact fun x s => ⟨_, rfl, rfl, soundOn_iff, advances_advance rfl, frame_setSt_advance s _⟩

theorem halted_tick (s : State) : s.tick.halted = s.halted := halted_of_fault_eq (frame_tick s .fault (by simp))

/-- Settles O51: by induction over the ticks, each of which takes one and stops at 0. -/
theorem timersAreMonotone : Obligations.TimersAreMonotone := by
  unfold Obligations.TimersAreMonotone
  intro n
  induction n with
  | zero => exact fun s _ => ⟨rfl, rfl⟩
  | succ n ih =>
    intro s hs
    obtain ⟨hdt, hst⟩ := ih s.tick ((halted_tick s).trans hs)
    rw [toNat_tick_dt hs, Nat.sub_sub, Nat.add_comm] at hdt
    rw [toNat_tick_st hs, Nat.sub_sub, Nat.add_comm] at hst
    exact ⟨hdt, hst⟩

end Sys2Proof.Machine
end

section
/-! PROOFS. Reset, the loader, the order of events, and two fixed points (spec 10_state.md R25 to R34, 60_exceptions.md
R187 and R203, 70_reset_and_hazards.md R210 to R213). -/

namespace Sys2Proof.Machine

variable {s t : State}

/-! ## Reset -/

theorem reset_readByte_of_font_end {a : Nat} (h : 0x050 ≤ a) : State.reset.readByte a = 0#8 := by
  have hpast : font.length ≤ a - fontBase := h
  show unlistedByte a = 0#8
  rw [unlistedByte, List.getD_eq_default _ _ hpast, ite_self]

/-- Settles O53: the reset state is written out, and its memory lists nothing. -/
theorem resetValuesOfTheSpec : Obligations.ResetValuesOfTheSpec := by
  unfold Obligations.ResetValuesOfTheSpec
  refine ⟨fun x => ?_, rfl, rfl, rfl, fun j => ?_, rfl, rfl, rfl, fun p => ?_, rfl, rfl, rfl, rfl,
    fun _ => reset_readByte_of_font_end, by decide⟩
  · simp [State.getV, State.reset]
  · simp [State.getStack, State.reset]
  · exact FrameBuffer.pixel_blank p

/-- Settles O54: the event writes every field but the two that the frame names. -/
theorem resetFromAnyState : Obligations.ResetFromAnyState := by
  unfold Obligations.ResetFromAnyState
  intro s
  refine ⟨rfl, rfl, fun p hp => ?_, rfl⟩
  cases p with
  | quirks => exact absurd (.inl rfl) hp
  | rndCount => exact absurd (.inr rfl) hp
  | _ => rfl

/-! ## The loader and the ports -/

/-- Settles O55: an image in size is one write of consecutive bytes. -/
theorem loadImagePlacesTheBytesOrRefuses : Obligations.LoadImagePlacesTheBytesOrRefuses := by
  unfold Obligations.LoadImagePlacesTheBytesOrRefuses
  intro s bytes
  refine ⟨fun hfits => ⟨_, if_pos hfits, fun k hk => readByte_storeBytes_inside s 0x200 k bytes hk,
    frame_storeBytes s 0x200 bytes⟩, fun hlarge => ?_⟩
  have hrefused : s.event (.loadImage bytes) = .refused .imageTooLarge := if_neg (Nat.not_le.mpr hlarge)
  exact ⟨hrefused, congrArg s.landed hrefused⟩

/-- Settles O56: no load and no keys are taken at such an edge. -/
theorem bothStrobesAreStepThenTick : Obligations.BothStrobesAreStepThenTick := by
  unfold Obligations.BothStrobesAreStepThenTick
  intro s p hreset hload hstep htick
  simp only [State.clockEdge, hreset, hload, hstep, htick, Bool.false_eq_true, if_false, if_true, Bool.or_self]
  rfl

/-! ## Fixed points -/

theorem step_jp_self {nnn : Addr12} (hs : s.halted = false) (hn : nnn.toNat ≤ 0xFFE) (hpc : s.pc.toNat = nnn.toNat)
    (hword : s.wordAt s.pc.toNat = encode (.jp nnn)) : step s = .next s := by
  have htarget : addrOperand nnn = s.pc := BitVec.eq_of_toNat_eq ((toNat_addrOperand nnn).trans hpc.symm)
  calc step s = exec (.jp nnn) s := step_eq_exec hs (hpc ▸ hn) (hword ▸ decodeWord_encode _)
    _ = .next (s.setPc (addrOperand nnn)) := rfl
    _ = .next s := by rw [htarget]; rfl

/-- Settles O57: one step changes nothing, so no number of steps does. -/
theorem jumpToItselfIsAFixedPoint : Obligations.JumpToItselfIsAFixedPoint := by
  unfold Obligations.JumpToItselfIsAFixedPoint
  intro s nnn n hs hn hpc hword
  have hstep : core.step s = .next s := step_jp_self hs hn hpc hword
  induction n with
  | zero => rfl
  | succ n ih =>
    simp only [Host.Core.run, hstep]
    exact ih

/-- Settles O11: by induction over the events; a legal one short of `Reset` is `SetKeys`, or a step or a tick, which do
nothing. -/
theorem haltedCoreOnlyTakesKeys : Obligations.HaltedCoreOnlyTakesKeys := by
  unfold Obligations.HaltedCoreOnlyTakesKeys
  intro s es
  induction es generalizing s with
  | nil => exact fun _ _ _ => rfl
  | cons e es ih =>
    intro hs hlegal hreset
    have hrest : Event.reset ∉ es := fun h => hreset (List.mem_cons_of_mem e h)
    cases e with
    | reset => exact absurd List.mem_cons_self hreset
    | loadImage bytes => cases hlegal
    | setKeys k => exact ih (s.setKeys k) hs hlegal hrest
    | step r =>
      have hstep : s.after (.step r) = s := congrArg s.landed (stepWith_of_halted hs r)
      have htail := ih s hs hlegal hrest
      show (s.after (.step r)).afterAll es = _
      rw [hstep]
      exact htail
    | tick =>
      have htick : s.after .tick = s := tick_of_halted hs
      show (s.after .tick).afterAll es = _
      rw [htick]
      exact ih s hs hlegal hrest

end Sys2Proof.Machine
end
